-- ==== Sys2Proof/Word.lean ====
section
/-! DEFINITION. The plainest data of UC-BRIDGE: the byte (20_memory.md R61), the colour triple (30_encoding.md R97),
truncation (00_scope.md R10). Every value is unsigned (00_scope.md R10). -/

namespace Sys2Proof

/-- `trunc_N(v)`: the low `N` bits of a natural number (R10). -/
abbrev trunc (n v : Nat) : Nat := v % 2 ^ n

/-- The addressable unit of every byte space: 8 bits (R61). -/
abbrev Byte := BitVec 8

/-- An InputMask: 6 bits, bit 0 up, 1 down, 2 left, 3 right, 4 button1, 5 button2 (R90). -/
abbrev InputMask := BitVec 6

/-- The key code of a key event: 4 bits (R102, R104). -/
abbrev KeyCode := BitVec 4

/-- One ColorTable entry: three 8-bit channels, not packed into a word (R97). -/
structure Rgb where
  r : Byte
  g : Byte
  b : Byte
deriving DecidableEq, Repr, Inhabited

end Sys2Proof
end

