-- ==== Sys2Proof/Config.lean ====
section
/-! DEFINITION. What an implementation fixes (00_scope.md R7, R8) and the free values. The constants of R7 are
named here. The parameters of R8, `PTR_WIDTH`, `NKEYS`, `GREEN`, `BINDING`, `KEY_RIGHT_MOD` and `OOR_POLICY`, are fields of
the structure `Config`, which the state carries and no step writes, so that a claim can name them and a claim about every
state is a claim about every configuration. Their defaults are in Machine/Defaults.lean. `MEM_SIZE` and `CAP` of R8 are
inputs. -/

namespace Sys2Proof

namespace Config

/-- `W`, frame width in pixels (R7). -/
abbrev frameWidth : Nat := 320
/-- `H`, frame height in pixels (R7). -/
abbrev frameHeight : Nat := 240
/-- `NPIX` = W × H: bytes of the ScreenBuffer, pixels of the PixelBuffer (R7). -/
abbrev nPix : Nat := 76800
/-- `NPAL`: palette entries and ColorTable entries (R7). -/
abbrev nPal : Nat := 32
/-- `PAL_ENTRY_BYTES` (R7). -/
abbrev palEntryBytes : Nat := 2
/-- `PAL_BYTES` = NPAL × 2 (R7). -/
abbrev palBytes : Nat := 64
/-- `PIX_CH`: channels of an output pixel (R7). -/
abbrev pixCh : Nat := 4
/-- `PIX_BYTES` = NPIX × 4 (R7). -/
abbrev pixBytes : Nat := 307200
/-- `ALPHA`, the value of every alpha byte (R7). -/
abbrev alpha : Byte := 255#8
/-- `NPLAYERS` (R7). -/
abbrev nPlayers : Nat := 2
/-- `MASK_BITS` (R7). -/
abbrev maskBits : Nat := 6
/-- `IDX_MAX` = NPAL − 1, the largest valid screen byte (R7). -/
abbrev idxMax : Nat := 31
end Config

/-- One player's row of the binding table: for each input of R90 the key codes bound to it (R125). -/
abbrev BindingRow := Vector (List KeyCode) Config.maskBits

/-- `BINDING[p][n]`, the source's `bindingTable` argument (R124, R125). -/
structure Binding where
  /-- player 1, `p = 0` -/
  p1 : BindingRow
  /-- player 2, `p = 1` -/
  p2 : BindingRow
deriving DecidableEq, Repr

/-- `GREEN`, a function from a byte to a byte (R162), held as its table. -/
abbrev GreenTable := Vector Byte 256

/-- `OOR_POLICY`: the treatment of a screen byte above 31. The spec fixes it to `fault` (R8, D16; log 11). -/
inductive OorPolicy where
  | fault
deriving DecidableEq, Repr

/-- The physical keys the source names (R104), the modifiers that could be "the right modifier key" (D4), and
every other key. The host's translation from these to key codes is outside the block (R102). -/
inductive PhysicalKey where
  | arrowUp | arrowDown | arrowLeft | arrowRight
  | rightControl | rightShift | rightAlt | rightMeta
  | space | enter
  | w | a | s | d
  | leftControl | z | leftShift | x
  | other
deriving DecidableEq, Repr, Inhabited

/-- The configuration of one machine: what R8 leaves open and R40 calls configuration constants. -/
structure Config where
  /-- `PTR_WIDTH`: the bits of a pointer; a size and a fault register have one bit more (R8, R23, R24, R35) -/
  ptrWidth : Nat
  /-- `NKEYS`: the number of key lines (R8, R21) -/
  nKeys : Nat
  /-- `BINDING` -/
  binding : Binding
  /-- `GREEN` -/
  green : GreenTable
  /-- `KEY_RIGHT_MOD`; read only by the host's translation of physical keys (D4) -/
  keyRightMod : PhysicalKey
  /-- `OOR_POLICY` -/
  oorPolicy : OorPolicy
deriving DecidableEq, Repr

namespace Config

/-- Which key "the right modifier key" is: OPEN in the spec (R8, D4), so no value is known of it (log 10). -/
opaque openRightMod : PhysicalKey

/-! Free values: what RESET leaves where the spec says "unspecified" (R50, R250, U7). Each is applied to the number of
the RESET that draws it. DESIGN CHOICE (log 4): nothing is known of any value. -/

/-- `P1MASK` after a RESET. -/
opaque freeP1Mask : Nat → InputMask
/-- `P2MASK` after a RESET. -/
opaque freeP2Mask : Nat → InputMask
/-- `SCREEN_PTR` after a RESET, to be truncated to its width. -/
opaque freeScreenPtr : Nat → Nat
/-- `PALETTE_PTR` after a RESET, to be truncated to its width. -/
opaque freePalettePtr : Nat → Nat
/-- `MEMSZ` after a RESET, to be reduced to the range R24 sets. -/
opaque freeMemSz : Nat → Nat
/-- `SCR` after a RESET. -/
opaque freeScr : Nat → Vector Byte nPix
/-- `PAL` after a RESET. -/
opaque freePal : Nat → Vector Byte palBytes
/-- `CT` after a RESET. -/
opaque freeCt : Nat → Vector Rgb nPal
/-- `PIX` after a RESET. -/
opaque freePix : Nat → Vector Byte pixBytes

end Config

end Sys2Proof
end

