-- ==== Sys2Proof/Syntax.lean ====
section
/-! DEFINITION. The operations of UC-BRIDGE, one constructor per row of spec/opcode_table.json (30_encoding.md R100).
"Wherever the checklist says instruction this spec says operation" (00_scope.md R2). -/

namespace Sys2Proof

/-- The seventeen operations (R100). -/
inductive Instr where
  /-- host event RESET (R250) -/
  | reset
  /-- host event START with its payload `cap` (R192) -/
  | start (cap : BitVec 4)
  /-- host event TICK (R194) -/
  | tick
  /-- key event KEYDOWN (R120) -/
  | keydown (key : KeyCode)
  /-- key event KEYUP (R121) -/
  | keyup (key : KeyCode)
  /-- phase IDLE (R193) -/
  | idle
  /-- phase SAMPLE (R123) -/
  | sample
  /-- phase STEP (R196) -/
  | step
  /-- phase ACQUIRE (R140) -/
  | acquire
  /-- phase XSCREEN (R142) -/
  | xscreen
  /-- phase XPAL (R144) -/
  | xpal
  /-- phase DECODE (R160) -/
  | decode
  /-- phase COMPOSITE (R177) -/
  | composite
  /-- phase PRESENT (R198) -/
  | present
  /-- phase WAIT (R195) -/
  | wait
  /-- phase INIT (R175) -/
  | init
  /-- phase HALT (R199) -/
  | halt
deriving DecidableEq, Repr

/-- The word formats that select an operation (R105). -/
inductive Format where
  /-- `HEVT`, 2 bits (R103) -/
  | hevt
  /-- `KEVT`, 5 bits (R102) -/
  | kevt
  /-- `PHASE`, 4 bits (R101) -/
  | phase
deriving DecidableEq, Repr

/-- A word that selects an operation, in the format its port or register gives it. The payload `cap` of START
"travels beside the `HEVT` word" (R105); with any other `HEVT` code it means nothing (log 23). -/
inductive OpWord where
  | hevt (code : BitVec 2) (cap : BitVec 4)
  | kevt (word : BitVec 5)
  | phase (code : BitVec 4)
deriving DecidableEq, Repr

/-- The format of a word. -/
def OpWord.format : OpWord → Format
  | .hevt _ _ => .hevt
  | .kevt _ => .kevt
  | .phase _ => .phase

/-- The bits of a word as a number, the payload left out (it "is not part of the match", R105). -/
def OpWord.bits : OpWord → Nat
  | .hevt code _ => code.toNat
  | .kevt word => word.toNat
  | .phase code => code.toNat

end Sys2Proof
end

