-- ==== Sys2Proof/WellFormed.lean ====
section
/-! DEFINITION. Which terms are well formed. An operation's operands are bit vectors of the stated width, so every
`Instr` is well formed by its type; what can be ill formed is a word (a reserved `PHASE` code, R108; the `HEVT` code of
no event, R103; a payload where the code has none, R103) and a binding table (a key code that has no line, R104). -/

namespace Sys2Proof

/-- Every operation is well formed: `cap` and `key` are 4 bits by type and every value of them is legal
(R192: any `cap`; R109: key code 15 "is legal and does nothing"). -/
def Instr.wellFormed : Instr → Bool
  | .reset | .start _ | .tick | .keydown _ | .keyup _ => true
  | .idle | .sample | .step | .acquire | .xscreen | .xpal | .decode | .composite | .present => true
  | .wait | .init | .halt => true

/-- A `PHASE` code of R101 that is not reserved (R108: 10 to 13). -/
def phaseCodeLegal (code : BitVec 4) : Bool :=
  code.toNat < 10 || 13 < code.toNat

/-- A word that selects an operation and carries nothing the format has no place for. -/
def OpWord.wellFormed : OpWord → Bool
  | .hevt code cap => code != 0#2 && (code == 2#2 || cap == 0#4)
  | .kevt _ => true
  | .phase code => phaseCodeLegal code

/-- Every key code of a row names a key line (R104: code 15 has none; R21: lines 0 to `NKEYS − 1`). -/
def rowWellFormed (nKeys : Nat) (row : BindingRow) : Bool :=
  row.toList.all fun codes => codes.all fun k => decide (k.toNat ≤ 14 ∧ k.toNat < nKeys)

/-- A binding table names key lines only. -/
def Binding.wellFormed (nKeys : Nat) (b : Binding) : Bool :=
  rowWellFormed nKeys b.p1 && rowWellFormed nKeys b.p2

/-- A configuration binds only the key lines it has. -/
def Config.wellFormed (c : Config) : Bool := c.binding.wellFormed c.nKeys

end Sys2Proof
end

