-- ==== Sys2Proof/Decode.lean ====
section
/-! DEFINITION. Decoding and encoding (30_encoding.md R100 to R108): a total decoder of the three word formats that
rejects by name, an encoder written from the same tables, the opcode table itself, and the reading of a table row's
bits as a word. -/

namespace Sys2Proof

/-! ## The codes -/

/-- The `PHASE` codes of R101. -/
@[simp] abbrev Phase.idle : BitVec 4 := 0#4
@[simp] abbrev Phase.sample : BitVec 4 := 1#4
@[simp] abbrev Phase.step : BitVec 4 := 2#4
@[simp] abbrev Phase.acquire : BitVec 4 := 3#4
@[simp] abbrev Phase.xscreen : BitVec 4 := 4#4
@[simp] abbrev Phase.xpal : BitVec 4 := 5#4
@[simp] abbrev Phase.decode : BitVec 4 := 6#4
@[simp] abbrev Phase.composite : BitVec 4 := 7#4
@[simp] abbrev Phase.present : BitVec 4 := 8#4
@[simp] abbrev Phase.wait : BitVec 4 := 9#4
@[simp] abbrev Phase.init : BitVec 4 := 14#4
@[simp] abbrev Phase.halt : BitVec 4 := 15#4

/-- The `HEVT` codes of R103. -/
@[simp] abbrev HostEvent.none : BitVec 2 := 0#2
@[simp] abbrev HostEvent.tick : BitVec 2 := 1#2
@[simp] abbrev HostEvent.start : BitVec 2 := 2#2
@[simp] abbrev HostEvent.reset : BitVec 2 := 3#2

/-! ## The decoder -/

/-- Why a word selects no operation. -/
inductive DecodeError where
  /-- `HEVT` code 0 "is no event" (R109) -/
  | noEvent
  /-- a reserved `PHASE` code, 10 to 13 (R108) -/
  | reservedPhase (code : BitVec 4)
deriving DecidableEq, Repr

/-- `PHASE` codes to phase operations (R101); a reserved code to a refusal, never to a phase (R108). -/
def decodePhase (code : BitVec 4) : Except DecodeError Instr :=
  match code.toNat with
  | 0 => .ok .idle
  | 1 => .ok .sample
  | 2 => .ok .step
  | 3 => .ok .acquire
  | 4 => .ok .xscreen
  | 5 => .ok .xpal
  | 6 => .ok .decode
  | 7 => .ok .composite
  | 8 => .ok .present
  | 9 => .ok .wait
  | 14 => .ok .init
  | 15 => .ok .halt
  | _ => .error (.reservedPhase code)

/-- The key field, bits 3:0 of a key event word (R102). -/
def keyField (word : BitVec 5) : KeyCode := word.extractLsb' 0 4

/-- Key events: bit 4 is `down` (R102). -/
def decodeKeyEvent (word : BitVec 5) : Instr :=
  if word.getLsbD 4 then .keydown (keyField word) else .keyup (keyField word)

/-- Host events (R103), START with the payload beside the word (R105). -/
def decodeHostEvent (code : BitVec 2) (cap : BitVec 4) : Except DecodeError Instr :=
  match code.toNat with
  | 1 => .ok .tick
  | 2 => .ok (.start cap)
  | 3 => .ok .reset
  | _ => .error .noEvent

/-- The decoder: total on every word of every format (R105). -/
def decode : OpWord → Except DecodeError Instr
  | .hevt code cap => decodeHostEvent code cap
  | .kevt word => .ok (decodeKeyEvent word)
  | .phase code => decodePhase code

/-! ## The encoder -/

/-- The word of an operation, from R101 to R103. -/
def encode : Instr → OpWord
  | .reset => .hevt HostEvent.reset 0#4
  | .start cap => .hevt HostEvent.start cap
  | .tick => .hevt HostEvent.tick 0#4
  | .keydown key => .kevt (1#1 ++ key)
  | .keyup key => .kevt (0#1 ++ key)
  | .idle => .phase Phase.idle
  | .sample => .phase Phase.sample
  | .step => .phase Phase.step
  | .acquire => .phase Phase.acquire
  | .xscreen => .phase Phase.xscreen
  | .xpal => .phase Phase.xpal
  | .decode => .phase Phase.decode
  | .composite => .phase Phase.composite
  | .present => .phase Phase.present
  | .wait => .phase Phase.wait
  | .init => .phase Phase.init
  | .halt => .phase Phase.halt

/-! ## The opcode table (R105, spec/opcode_table.json) -/

/-- The mnemonic of an operation, as the table spells it. -/
def Instr.mnemonic : Instr → String
  | .reset => "RESET"
  | .start _ => "START"
  | .tick => "TICK"
  | .keydown _ => "KEYDOWN"
  | .keyup _ => "KEYUP"
  | .idle => "IDLE"
  | .sample => "SAMPLE"
  | .step => "STEP"
  | .acquire => "ACQUIRE"
  | .xscreen => "XSCREEN"
  | .xpal => "XPAL"
  | .decode => "DECODE"
  | .composite => "COMPOSITE"
  | .present => "PRESENT"
  | .wait => "WAIT"
  | .init => "INIT"
  | .halt => "HALT"

/-- One row of the table: `mask` and `value` are such that a word `w` of the format selects the row when and only
when `(w & mask) = value` (R105; the table calls `value` "match"). -/
structure TableRow where
  mnemonic : String
  format : Format
  width : Nat
  value : Nat
  mask : Nat
deriving DecidableEq, Repr

/-- The five event rows. -/
def eventRows : List TableRow :=
  [ ⟨"RESET", .hevt, 2, 0x3, 0x3⟩, ⟨"START", .hevt, 2, 0x2, 0x3⟩, ⟨"TICK", .hevt, 2, 0x1, 0x3⟩,
    ⟨"KEYDOWN", .kevt, 5, 0x10, 0x10⟩, ⟨"KEYUP", .kevt, 5, 0x00, 0x10⟩ ]

/-- The twelve phase rows. -/
def phaseRows : List TableRow :=
  [ ⟨"IDLE", .phase, 4, 0x0, 0xf⟩, ⟨"SAMPLE", .phase, 4, 0x1, 0xf⟩, ⟨"STEP", .phase, 4, 0x2, 0xf⟩,
    ⟨"ACQUIRE", .phase, 4, 0x3, 0xf⟩, ⟨"XSCREEN", .phase, 4, 0x4, 0xf⟩, ⟨"XPAL", .phase, 4, 0x5, 0xf⟩,
    ⟨"DECODE", .phase, 4, 0x6, 0xf⟩, ⟨"COMPOSITE", .phase, 4, 0x7, 0xf⟩, ⟨"PRESENT", .phase, 4, 0x8, 0xf⟩,
    ⟨"WAIT", .phase, 4, 0x9, 0xf⟩, ⟨"INIT", .phase, 4, 0xe, 0xf⟩, ⟨"HALT", .phase, 4, 0xf, 0xf⟩ ]

/-- The seventeen rows. -/
def opcodeTable : List TableRow := eventRows ++ phaseRows

/-- The rows a word selects (R105). -/
def selectedRows (w : OpWord) : List TableRow :=
  opcodeTable.filter fun row => row.format == w.format && (w.bits &&& row.mask) == row.value

/-! ## The words of the table's rows -/

/-- The word that `nbits` bits of the table with the value `w` stand for. 2, 4 and 5 bits name the formats `HEVT`,
`PHASE` and `KEVT`. A number of whole bytes names no format; then the word is read in the first format in which it
selects an operation, in the order `PHASE`, `KEVT` (DESIGN CHOICE, log 15). The payload `cap` has no bits in the table,
so it is 0. -/
def tableWord (nbits w : Nat) : Option OpWord :=
  if nbits = 2 then (if w < 4 then some (.hevt (BitVec.ofNat 2 w) 0#4) else none)
  else if nbits = 4 then (if w < 16 then some (.phase (BitVec.ofNat 4 w)) else none)
  else if nbits = 5 then (if w < 32 then some (.kevt (BitVec.ofNat 5 w)) else none)
  else if w < 16 && phaseCodeLegal (BitVec.ofNat 4 w) then some (.phase (BitVec.ofNat 4 w))
  else if w < 32 then some (.kevt (BitVec.ofNat 5 w))
  else none

/-- The operation the decoder reads from a table row's bits; none where it refuses. -/
def decodeTableWord (nbits w : Nat) : Option Instr :=
  match tableWord nbits w with
  | some word => (decode word).toOption
  | none => none

end Sys2Proof
end

