-- ==== Sys2Proof/Machine/Buffers.lean ====
section
/-! DEFINITION. Building a buffer of a fixed number of elements from a function of the element's number. The loop
indices of the operations live only inside them (10_state.md R32). -/

namespace Sys2Proof.Machine

/-- `f i, f (i+1), …`, `n` elements in ascending order. -/
def tabulateFrom {α : Type} (f : Nat → α) : Nat → Nat → List α
  | _, 0 => []
  | i, n + 1 => f i :: tabulateFrom f (i + 1) n

theorem tabulateFrom_length {α : Type} (f : Nat → α) (n i : Nat) :
    (tabulateFrom f i n).length = n := by
  induction n generalizing i with
  | zero => rfl
  | succ n ih => simp [tabulateFrom, ih]

/-- A list of `n` elements as a buffer. -/
def bufferOf {α : Type} {n : Nat} (l : List α) (h : l.length = n) : Vector α n := ⟨⟨l⟩, h⟩

/-- The buffer whose element `j` is `f j`. -/
def tabulate {α : Type} (n : Nat) (f : Nat → α) : Vector α n :=
  bufferOf (tabulateFrom f 0 n) (tabulateFrom_length f n 0)

end Sys2Proof.Machine
end

