-- ==== Sys2Proof/Machine/Defaults.lean ====
section
/-! DEFINITION. The default configuration (00_scope.md R8). -/

namespace Sys2Proof.Machine

/-- Player 1's row of the default binding table (R125): up, down, left, right the arrow keys, button1 the right modifier
key, button2 space or enter. Numbers are the key codes of R104. -/
def defaultRow1 : BindingRow :=
  #v[[0#4], [1#4], [2#4], [3#4], [4#4], [5#4, 6#4]]

/-- Player 2's row of the default binding table (R125): up W, down S, left A, right D (PRESUMED by the spec's D5, log 8),
button1 left control or Z, button2 left shift or X. -/
def defaultRow2 : BindingRow :=
  #v[[7#4], [9#4], [8#4], [10#4], [11#4, 12#4], [13#4, 14#4]]

/-- The default `BINDING` of R125. -/
def defaultBinding : Binding := ⟨defaultRow1, defaultRow2⟩

/-- The default `GREEN(b1) = b1 & 0xF0` (R162, D14; log 9), as its table. -/
def defaultGreen : GreenTable := tabulate 256 fun b => BitVec.ofNat 8 b &&& 0xF0#8

/-- The default configuration: R8's table. `PTR_WIDTH` is 32 by the spec's D10, from general knowledge (PRESUMED, log 7);
`NKEYS` is 15 by D3; `KEY_RIGHT_MOD` is open (log 10). -/
def defaultConfig : Config :=
  { ptrWidth := 32
    nKeys := 15
    binding := defaultBinding
    green := defaultGreen
    keyRightMod := Config.openRightMod
    oorPolicy := .fault }

end Sys2Proof.Machine
end

