-- ==== Sys2Proof/Machine/Block.lean ====
section
/-! DEFINITION. The state elements of the block itself (10_state.md R21 to R36) and their values after RESET
(10_state.md R50). `STATE` and the loop indices are not elements (R31, R32). -/

namespace Sys2Proof.Machine

/-- The elements of UC-BRIDGE, rules R21 to R36. The elements whose width or number is a parameter of R8 are natural numbers
and a list: their arithmetic is exact (R115), every write keeps them to their width (log 28), and `Inv` says so. -/
structure Block where
  /-- `K[0..NKEYS−1]`, the key lines, line 0 first (R21) -/
  keys : List Bool
  /-- `P1MASK` (R22) -/
  p1Mask : InputMask
  /-- `P2MASK` (R22) -/
  p2Mask : InputMask
  /-- `SCREEN_PTR`, `PTR_WIDTH` bits (R23) -/
  screenPtr : Nat
  /-- `PALETTE_PTR`, `PTR_WIDTH` bits (R23) -/
  palettePtr : Nat
  /-- `MEMSZ`, `PTR_WIDTH + 1` bits (R24) -/
  memSz : Nat
  /-- `SCR[0..76799]` (R25) -/
  scr : Vector Byte Config.nPix
  /-- `PAL[0..63]` (R26) -/
  pal : Vector Byte Config.palBytes
  /-- `CT[0..31]` (R27) -/
  ct : Vector Rgb Config.nPal
  /-- `PIX[0..307199]` (R28) -/
  pix : Vector Byte Config.pixBytes
  /-- `PHASE` (R30) -/
  phase : BitVec 4
  /-- `CAP[3:0]` (R33) -/
  cap : BitVec 4
  /-- `FAULT_CAUSE` (R34) -/
  faultCause : BitVec 3
  /-- `FAULT_INFO0`, `PTR_WIDTH + 1` bits (R35) -/
  faultInfo0 : Nat
  /-- `FAULT_INFO1`, `PTR_WIDTH + 1` bits (R35) -/
  faultInfo1 : Nat
  /-- `START_ERR[3:0]` (R36) -/
  startErr : BitVec 4
deriving DecidableEq, Repr

/-- The block after the RESET that draws number `d` (R50, R250): what the spec gives, and a free value (log 4) in every
element the spec calls unspecified. -/
def blockAfterReset (c : Config) (d : Nat) : Block :=
  { keys := List.replicate c.nKeys false
    p1Mask := Config.freeP1Mask d
    p2Mask := Config.freeP2Mask d
    screenPtr := trunc c.ptrWidth (Config.freeScreenPtr d)
    palettePtr := trunc c.ptrWidth (Config.freePalettePtr d)
    memSz := Config.freeMemSz d % (2 ^ c.ptrWidth + 1)
    scr := Config.freeScr d
    pal := Config.freePal d
    ct := Config.freeCt d
    pix := Config.freePix d
    phase := Phase.init
    cap := 0#4
    faultCause := 0#3
    faultInfo0 := 0
    faultInfo1 := 0
    startErr := 0#4 }

end Sys2Proof.Machine
end

