-- ==== Sys2Proof/Machine/State.lean ====
section
/-! DEFINITION. The state of the machine as plain data: the block's elements, and beside them, never written by the
block, what 10_state.md R40 calls environment state and configuration constants. Then the reasons a step can stop, and
the state right after reset. -/

namespace Sys2Proof.Machine

/-- The compute module as the block meets it (R40, R45, R60): its linear memory and its size, and the offsets it would
report for its two buffers. Memory is the list of (offset, byte) pairs of the bytes that are not zero, offsets rising;
an offset that is not listed reads as zero (log 3). -/
structure ComputeModule where
  /-- `MEM` -/
  mem : List Host.Cell
  /-- `MEM_SIZE` -/
  size : Nat
  /-- the answer to get-screen-pointer -/
  screenPtr : Nat
  /-- the answer to get-palette-pointer -/
  palettePtr : Nat
deriving DecidableEq, Repr

/-- One turn: which agent makes the next transition (60_exceptions.md R222, R235; log 1). -/
inductive Turn where
  /-- the sequencer -/
  | seq
  /-- the display or the loader: a word of the host event format (R103) with its payload -/
  | host (code : BitVec 2) (cap : BitVec 4)
  /-- the key-event source: a word of the `KEV` port (R102) -/
  | key (word : BitVec 5)
deriving DecidableEq, Repr

/-- The output transactions (00_scope.md R16, 10_state.md R45). -/
inductive Output where
  /-- `StartStatus(ok)` (R192) -/
  | startStatus (ok : Bool)
  /-- `StepReq(p1, p2)`: player 1's mask, then player 2's, as numbers (R91, R196) -/
  | stepReq (p1 p2 : Nat)
  /-- `Present(frame)`: the bytes of `PIX` (R198) -/
  | present (frame : Vector Byte Config.pixBytes)
  /-- `Fault(cause, i0, i1)` (R225) -/
  | fault (cause : BitVec 3) (i0 i1 : Nat)
deriving DecidableEq, Repr

/-- The state of the machine. -/
structure State where
  /-- the elements of UC-BRIDGE -/
  block : Block
  /-- the compute module as it is now (environment, R40) -/
  moduleNow : ComputeModule
  /-- what the module will have become when each coming STEP returns, the next one first; with no entry the module's step
  never returns (environment, R77, R197; log 12) -/
  stepReturns : List ComputeModule
  /-- what the module will have become when the queries of each coming ACQUIRE return, the next one first; with no entry
  the queries change nothing (environment, R78; log 13) -/
  queryReturns : List ComputeModule
  /-- which agent moves next, the next turn first; with no entry the sequencer (environment, R222; log 1) -/
  turns : List Turn
  /-- the output transactions so far, oldest first (R16; log 19) -/
  trace : List Output
  /-- the configuration, written by no step (R8, R40) -/
  config : Config
  /-- the model's own counter of the free values drawn by RESET (log 5) -/
  draws : Nat
deriving DecidableEq, Repr

/-- The reasons the machine's step can stop with a fault. The faults of the spec are not here: they are next states, made
by the halt entry (R225; log 20). -/
inductive Fault where
  /-- `MemRead` outside its domain (R62: "defined only when" the region lies inside `MEM_SIZE`). Raised by XSCREEN and XPAL in
  a state where the latched `MEMSZ` is larger than the module's memory, which no run reaches (R78). Safe (log 14). -/
  | memReadUndefined
deriving DecidableEq, Repr

/-- The reasons the machine's step can give no meaning. -/
inductive Refusal where
  /-- An operation whose meaning is not written. Raised by no arm of `exec`. Safe. -/
  | notModelled (mnemonic : String)
  /-- `PHASE` holds a reserved code, 10 to 13 (R108: "a refusal (the machine has no meaning for it)"). Raised by `step` when
  the sequencer moves in such a state, which no run reaches. Safe (log 21). -/
  | reservedPhase (code : BitVec 4)
deriving DecidableEq, Repr

/-- No module yet: no memory, so no byte of it can be read (DESIGN CHOICE, log 6). -/
def noModule : ComputeModule :=
  { mem := [], size := 0, screenPtr := 0, palettePtr := 0 }

/-- The machine right after RESET (R50, R250), with the default configuration, before anything has happened in its
environment (log 6). -/
def State.reset : State :=
  { block := blockAfterReset defaultConfig 0
    moduleNow := noModule
    stepReturns := []
    queryReturns := []
    turns := []
    trace := []
    config := defaultConfig
    draws := 1 }

end Sys2Proof.Machine
end

