-- ==== Sys2Proof/Machine/Ops.lean ====
section
/-! DEFINITION. The named operations over the state: one update per element or latch group, the module's memory, the
emission of an output transaction, the halt entry, the calls into the module, the fetch of the next word and the placing
of a word where the fetch finds it. -/

namespace Sys2Proof.Machine

/-! ## Updates of the block's elements -/

/-- `PHASE <- p` (R12). -/
def Block.setPhase (b : Block) (p : BitVec 4) : Block := { b with phase := p }
/-- `K <- k`. -/
def Block.setKeys (b : Block) (k : List Bool) : Block := { b with keys := k }
/-- `P1MASK <- m1`, `P2MASK <- m2`. -/
def Block.setMasks (b : Block) (m1 m2 : InputMask) : Block := { b with p1Mask := m1, p2Mask := m2 }
/-- `SCREEN_PTR <- sp`, `PALETTE_PTR <- pp`, `MEMSZ <- size`. -/
def Block.setView (b : Block) (sp pp size : Nat) : Block :=
  { b with screenPtr := sp, palettePtr := pp, memSz := size }
/-- `SCR[*] <- v`. -/
def Block.setScr (b : Block) (v : Vector Byte Config.nPix) : Block := { b with scr := v }
/-- `PAL[*] <- v`. -/
def Block.setPal (b : Block) (v : Vector Byte Config.palBytes) : Block := { b with pal := v }
/-- `CT[*] <- v`. -/
def Block.setCt (b : Block) (v : Vector Rgb Config.nPal) : Block := { b with ct := v }
/-- `PIX[*] <- v`. -/
def Block.setPix (b : Block) (v : Vector Byte Config.pixBytes) : Block := { b with pix := v }
/-- `CAP <- c`. -/
def Block.setCap (b : Block) (c : BitVec 4) : Block := { b with cap := c }
/-- `START_ERR <- e`. -/
def Block.setStartErr (b : Block) (e : BitVec 4) : Block := { b with startErr := e }
/-- `FAULT_CAUSE <- cause`, `FAULT_INFO0 <- i0`, `FAULT_INFO1 <- i1`. -/
def Block.setFault (b : Block) (cause : BitVec 3) (i0 i1 : Nat) : Block :=
  { b with faultCause := cause, faultInfo0 := i0, faultInfo1 := i1 }

/-! ## Updates of the state -/

/-- The state with another block. -/
def State.setBlock (s : State) (b : Block) : State := { s with block := b }
/-- The state with other turns to come. -/
def State.setTurns (s : State) (t : List Turn) : State := { s with turns := t }
/-- `emit o`: appended to the observable trace (R12). -/
def State.emit (s : State) (o : Output) : State := { s with trace := s.trace ++ [o] }
/-- The state after a RESET has drawn its free values (log 5). -/
def State.countDraw (s : State) : State := { s with draws := s.draws + 1 }

/-! ## The halt entry (60_exceptions.md R225) -/

/-- `raise Fault(cause, i0, i1)`: the three fault registers, `PHASE <- HALT`, `emit Fault`; "nothing else is saved and nothing
else is changed" (R225). An assignment to an element truncates to its width (R11, R35); what is emitted are the values themselves
(log 28). There is no return from it: RESET alone leaves HALT (R227). -/
def haltEntry (cause : BitVec 3) (i0 i1 : Nat) (s : State) : State :=
  (s.setBlock ((s.block.setFault cause (trunc (s.config.ptrWidth + 1) i0)
      (trunc (s.config.ptrWidth + 1) i1)).setPhase Phase.halt)).emit
    (.fault cause i0 i1)

/-! ## The module's memory (20_memory.md R60 to R63, R70) -/

/-- What an offset that is not listed reads as (DESIGN CHOICE, log 3). -/
def Memory.unlisted : Byte := 0#8

/-- One byte. -/
def Memory.read : List Host.Cell → Nat → Byte
  | [], _ => Memory.unlisted
  | c :: rest, a => if c.1 = a then c.2 else Memory.read rest a

/-- The canonical form: offsets strictly rising, no entry equal to what an unlisted offset reads as. -/
abbrev Memory.wf (m : List Host.Cell) : Prop :=
  m.Pairwise (fun c d => c.1 < d.1) ∧ ∀ c ∈ m, c.2 ≠ Memory.unlisted

/-- One byte stored, for the module: the block itself never writes module memory (R63). Keeps the canonical form. -/
def Memory.write : List Host.Cell → Nat → Byte → List Host.Cell
  | [], a, v => if v = Memory.unlisted then [] else [(a, v)]
  | c :: rest, a, v =>
    if a < c.1 then (if v = Memory.unlisted then c :: rest else (a, v) :: c :: rest)
    else if a = c.1 then (if v = Memory.unlisted then rest else (a, v) :: rest)
    else c :: Memory.write rest a v

/-- The memory that holds the listed bytes, the first entry of an offset winning, in canonical form. -/
def Memory.ofCells (cells : List Host.Cell) : List Host.Cell :=
  cells.foldr (fun c m => Memory.write m c.1 c.2) []

/-- `MemRead(addr, n)`: the `n` bytes at `addr` to `addr + n − 1` in ascending order, "defined when and only when
`addr + n ≤ MEM_SIZE`, the sum taken in unbounded naturals" (R62). -/
def memRead (m : ComputeModule) (addr n : Nat) : Option (Vector Byte n) :=
  if addr + n ≤ m.size then some (tabulate n fun j => Memory.read m.mem (addr + j)) else none

/-! ## Calls into the module (R77, R78, R196, R140) -/

/-- The module as a call's return leaves it: its memory in canonical form, of at most `2^PTR_WIDTH` bytes (R24, R60;
log 27). -/
def ComputeModule.landed (ptrWidth : Nat) (m : ComputeModule) : ComputeModule :=
  { m with mem := Memory.ofCells m.mem, size := min m.size (2 ^ ptrWidth) }

/-- The module's step has returned: the module is what the environment says it has become (R77). -/
def State.stepReturned (s : State) (m : ComputeModule) (rest : List ComputeModule) : State :=
  { s with moduleNow := m.landed s.config.ptrWidth, stepReturns := rest }

/-- The module's queries have returned (R78): it is what the environment says it has become, or unchanged (log 13). -/
def State.queriesReturned (s : State) : State :=
  match s.queryReturns with
  | [] => s
  | m :: rest => { s with moduleNow := m.landed s.config.ptrWidth, queryReturns := rest }

/-! ## Fetching -/

/-- The word of the next transition and the state with that turn taken: the word of the event whose turn it is, or the
code in `PHASE` when it is the sequencer's (R30: `PHASE` "names the operation the sequencer performs next"). -/
def State.fetch (s : State) : OpWord × State :=
  match s.turns with
  | [] => (.phase s.block.phase, s)
  | .seq :: rest => (.phase s.block.phase, s.setTurns rest)
  | .host code cap :: rest => (.hevt code cap, s.setTurns rest)
  | .key word :: rest => (.kevt word, s.setTurns rest)

/-- A word placed where the next step fetches: an event as the next turn, a phase code in `PHASE` with the sequencer's
turn next. -/
def State.placeWord (s : State) : OpWord → State
  | .hevt code cap => s.setTurns (.host code cap :: s.turns)
  | .kevt word => s.setTurns (.key word :: s.turns)
  | .phase code => (s.setBlock (s.block.setPhase code)).setTurns (.seq :: s.turns)

/-- A table row's bits placed where the next step fetches; nothing where they are no word. -/
def State.placeTableWord (s : State) (nbits w : Nat) : State :=
  match tableWord nbits w with
  | some word => s.placeWord word
  | none => s

end Sys2Proof.Machine
end

