-- ==== Sys2Proof/Machine/Operands.lean ====
section
/-! DEFINITION. How operations read and write their operands: key lines by key code (30_encoding.md R104), the rows of the
binding table (40_input_sampler.md R124), the module's capabilities (10_state.md R33), the two regions of module memory
(20_memory.md R73, R74), palette entries and pixels (20_memory.md R64, R76). -/

namespace Sys2Proof.Machine

/-! ## Key lines -/

/-- `if key <= 14 then K[key] <- v` (R120, R121); a line that `NKEYS` leaves out is not there to be written. -/
def writeKey (keys : List Bool) (key : KeyCode) (v : Bool) : List Bool :=
  if key.toNat ≤ 14 then keys.set key.toNat v else keys

/-- `K[key]`; a code without a line reads as not held (R21, R126 (f)). -/
def readKey (keys : List Bool) (key : KeyCode) : Bool := keys[key.toNat]?.getD false

/-- `held` of R123: some line bound to the input is 1. -/
def inputHeld (keys : List Bool) (codes : List KeyCode) : Bool :=
  codes.foldl (fun held k => held || readKey keys k) false

/-- `m` of R123: bit `n` is `held` of input `n`, for `n` in 0..6. -/
def maskOf (row : BindingRow) (keys : List Bool) : InputMask :=
  (BitVec.ofBool (inputHeld keys row[5]) ++ BitVec.ofBool (inputHeld keys row[4]) ++
   BitVec.ofBool (inputHeld keys row[3]) ++ BitVec.ofBool (inputHeld keys row[2]) ++
   BitVec.ofBool (inputHeld keys row[1]) ++ BitVec.ofBool (inputHeld keys row[0]))

/-- The mask as the module receives it: the 6-bit value zero-extended, a number in 0..63 (R91). -/
def maskArgument (m : InputMask) : Nat := m.toNat

/-- The host's translation of a physical key to its key code: the table of R104, with `KEY_RIGHT_MOD` for code 4 (D4).
It stands outside the block (R102). -/
def keyCodeOf (c : Config) (k : PhysicalKey) : KeyCode :=
  if k = c.keyRightMod then 4#4
  else match k with
    | .arrowUp => 0#4
    | .arrowDown => 1#4
    | .arrowLeft => 2#4
    | .arrowRight => 3#4
    | .space => 5#4
    | .enter => 6#4
    | .w => 7#4
    | .a => 8#4
    | .s => 9#4
    | .d => 10#4
    | .leftControl => 11#4
    | .z => 12#4
    | .leftShift => 13#4
    | .x => 14#4
    | .rightControl | .rightShift | .rightAlt | .rightMeta | .other => 15#4

/-! ## Capabilities -/

/-- `~CAP & 0b1111`: the capabilities that are missing, bit by bit (R36, R216). -/
def missingCaps (cap : BitVec 4) : BitVec 4 := ~~~cap &&& 0b1111#4

/-- The module exposes the step operation: bit 0 (R33). -/
def hasStep (cap : BitVec 4) : Bool := cap.getLsbD 0

/-- The module exposes both pointer operations and the memory view: bits 1, 2 and 3 (R33). -/
def hasQueries (cap : BitVec 4) : Bool := cap.getLsbD 1 && cap.getLsbD 2 && cap.getLsbD 3

/-! ## Regions of module memory -/

/-- `ptr + len ≤ MEMSZ` in unbounded naturals (R74). -/
def regionFits (ptr len memSz : Nat) : Bool := ptr + len ≤ memSz

/-! ## Palette entries and pixels -/

/-- `b0` of palette entry `n`: the byte at offset `2n` (R64, R92). -/
def palB0 (pal : Vector Byte Config.palBytes) (n : Nat) : Byte := pal[2 * n]?.getD 0

/-- `b1` of palette entry `n`: the byte at offset `2n + 1` (R64, R92). -/
def palB1 (pal : Vector Byte Config.palBytes) (n : Nat) : Byte := pal[2 * n + 1]?.getD 0

/-- `GREEN(b1)`: the configured function (R162). -/
def greenOf (green : GreenTable) (b1 : Byte) : Byte := green[b1.toNat]'b1.isLt

end Sys2Proof.Machine
end

