-- ==== Sys2Proof/Machine/Flags.lean ====
section
/-! DEFINITION. The block has no condition codes (10_state.md R38). What it has of status: the derived `STATE` (R31), the
fault causes (60_exceptions.md R216) and the `STATUS` port (R45). -/

namespace Sys2Proof.Machine

/-- The three values of `STATE` (R31). -/
inductive SeqState where
  | idle
  | running
  | halted
deriving DecidableEq, Repr

/-- `STATE` as a function of `PHASE` (R31, R101); a reserved code has none. -/
def seqStateOf (phase : BitVec 4) : Option SeqState :=
  if phase = Phase.init ∨ phase = Phase.idle then some .idle
  else if phase = Phase.halt then some .halted
  else if phaseCodeLegal phase then some .running
  else none

/-- The fault causes of R216. Codes 5 to 7 are reserved: "never written". -/
@[simp] abbrev Cause.none : BitVec 3 := 0#3
@[simp] abbrev Cause.accessorMissing : BitVec 3 := 1#3
@[simp] abbrev Cause.oobScreen : BitVec 3 := 2#3
@[simp] abbrev Cause.oobPalette : BitVec 3 := 3#3
@[simp] abbrev Cause.indexRange : BitVec 3 := 4#3

/-- The payload of the `STATUS` port (R45). -/
structure Status where
  faultCause : BitVec 3
  faultInfo0 : Nat
  faultInfo1 : Nat
  startErr : BitVec 4
  seqState : Option SeqState
deriving DecidableEq, Repr

/-- The `STATUS` port, "readable at any time" (R45). -/
def statusPort (b : Block) : Status :=
  { faultCause := b.faultCause
    faultInfo0 := b.faultInfo0
    faultInfo1 := b.faultInfo1
    startErr := b.startErr
    seqState := seqStateOf b.phase }

end Sys2Proof.Machine
end

