-- ==== Sys2Proof/Machine/BufferReader.lean ====
section
/-! DEFINITION. The buffer reader: ACQUIRE, XSCREEN, XPAL (41_buffer_reader.md). -/

namespace Sys2Proof.Machine

/-- The latching of the module's three answers (R140): get-screen-pointer, get-palette-pointer, get-memory-view; each as wide as
its port and its element (R23, R24, R45). -/
def latchView (s : State) : State :=
  s.setBlock ((s.block.setView (trunc s.config.ptrWidth s.moduleNow.screenPtr)
    (trunc s.config.ptrWidth s.moduleNow.palettePtr)
    (trunc (s.config.ptrWidth + 1) s.moduleNow.size)).setPhase Phase.xscreen)

/-- ACQUIRE (R140): ACCESSOR_MISSING without the three query capabilities; else the queries return and their answers are
latched, `PHASE <- XSCREEN`. -/
def execAcquire (s : State) : Host.Outcome State Fault Refusal :=
  .next (if hasQueries s.block.cap then latchView s.queriesReturned
    else haltEntry Cause.accessorMissing (missingCaps s.block.cap).toNat 0 s)

/-- XSCREEN (R142): OOB_SCREEN when the region does not fit the latched size; else the 76800 bytes are copied,
`PHASE <- XPAL`. -/
def execXscreen (s : State) : Host.Outcome State Fault Refusal :=
  if regionFits s.block.screenPtr Config.nPix s.block.memSz then
    match memRead s.moduleNow s.block.screenPtr Config.nPix with
    | some bytes => .next (s.setBlock ((s.block.setScr bytes).setPhase Phase.xpal))
    | none => .fault .memReadUndefined
  else .next (haltEntry Cause.oobScreen s.block.screenPtr s.block.memSz s)

/-- XPAL (R144): OOB_PALETTE when the region does not fit the latched size; else the 64 bytes are copied,
`PHASE <- DECODE`. -/
def execXpal (s : State) : Host.Outcome State Fault Refusal :=
  if regionFits s.block.palettePtr Config.palBytes s.block.memSz then
    match memRead s.moduleNow s.block.palettePtr Config.palBytes with
    | some bytes => .next (s.setBlock ((s.block.setPal bytes).setPhase Phase.decode))
    | none => .fault .memReadUndefined
  else .next (haltEntry Cause.oobPalette s.block.palettePtr s.block.memSz s)

end Sys2Proof.Machine
end

