-- ==== Sys2Proof/Machine/ColorDecoder.lean ====
section
/-! DEFINITION. The colour decoder: DECODE (42_color_decoder.md). -/

namespace Sys2Proof.Machine

/-- Red: `trunc_8(b0 << 4)` (R161): the high nibble of `b0` is lost, the value does not saturate. -/
def redOf (b0 : Byte) : Byte := b0 <<< 4

/-- Blue: `(b1 & 0x0F) << 4` (R163). -/
def blueOf (b1 : Byte) : Byte := (b1 &&& 0x0F#8) <<< 4

/-- One palette entry to one ColorTable entry (R160). -/
def decodeEntry (green : GreenTable) (b0 b1 : Byte) : Rgb :=
  { r := redOf b0, g := greenOf green b1, b := blueOf b1 }

/-- All 32 entries (R160). -/
def decodePalette (green : GreenTable) (pal : Vector Byte Config.palBytes) : Vector Rgb Config.nPal :=
  tabulate Config.nPal fun n => decodeEntry green (palB0 pal n) (palB1 pal n)

/-- DECODE (R160): the whole table is recomputed, then `PHASE <- COMPOSITE`. -/
def execDecode (s : State) : Host.Outcome State Fault Refusal :=
  .next (s.setBlock ((s.block.setCt (decodePalette s.config.green s.block.pal)).setPhase Phase.composite))

end Sys2Proof.Machine
end

