-- ==== Sys2Proof/Machine/Compositor.lean ====
section
/-! DEFINITION. The compositor: INIT, COMPOSITE (43_compositor.md). Both loops over the pixels are written as one pass over
the bytes of `PIX`, four bytes a pixel (30_encoding.md R96). -/

namespace Sys2Proof.Machine

/-- INIT's loop (R175): 255 into the fourth byte of every pixel. -/
def fillAlpha : List Byte → List Byte
  | r :: g :: b :: _ :: pix => r :: g :: b :: Config.alpha :: fillAlpha pix
  | pix => pix

theorem fillAlpha_length (pix : List Byte) : (fillAlpha pix).length = pix.length := by
  induction pix using fillAlpha.induct with
  | case1 r g b a pix ih => simp [fillAlpha, ih]
  | case2 pix h => rw [fillAlpha]; exact h

/-- INIT (R175): the alpha bytes are written, then `PHASE <- IDLE`. -/
def execInit (s : State) : Host.Outcome State Fault Refusal :=
  .next (s.setBlock ((s.block.setPix
    (bufferOf (fillAlpha s.block.pix.toList) ((fillAlpha_length _).trans s.block.pix.size_toArray))).setPhase Phase.idle))

/-- COMPOSITE's writes (R177, R178): pixel by pixel in ascending order the colour of the screen byte into the first three
bytes, the fourth left alone; at the first byte that names no entry of `CT` the pass stops and the rest stays. -/
def paint (ct : Vector Rgb Config.nPal) : List Byte → List Byte → List Byte
  | idx :: scr, r :: g :: b :: a :: pix =>
    match ct[idx.toNat]? with
    | some c => c.r :: c.g :: c.b :: a :: paint ct scr pix
    | none => r :: g :: b :: a :: pix
  | _, pix => pix

theorem paint_length (ct : Vector Rgb Config.nPal) (scr pix : List Byte) :
    (paint ct scr pix).length = pix.length := by
  induction scr, pix using paint.induct ct with
  | case1 idx scr r g b a pix c h ih => simp [paint, h, ih]
  | case2 idx scr r g b a pix h => simp [paint, h]
  | case3 scr pix h => rw [paint]; exact h

/-- COMPOSITE's test (R178): the lowest pixel number, counted from `i`, whose byte is above 31, and that byte. -/
def firstOutOfRange : Nat → List Byte → Option (Nat × Byte)
  | _, [] => none
  | i, idx :: scr => if Config.idxMax < idx.toNat then some (i, idx) else firstOutOfRange (i + 1) scr

/-- The `PIX` that COMPOSITE leaves. -/
def compositePix (b : Block) : Vector Byte Config.pixBytes :=
  bufferOf (paint b.ct b.scr.toList b.pix.toList) ((paint_length _ _ _).trans b.pix.size_toArray)

/-- What happens at an out-of-range byte: `OOR_POLICY` is `fault` (R8, D16): INDEX_RANGE with the pixel number and the
byte (R178, R216). -/
def outOfRange (policy : OorPolicy) (i : Nat) (idx : Byte) (s : State) : State :=
  match policy with
  | .fault => haltEntry Cause.indexRange i idx.toNat s

/-- COMPOSITE (R177): the pixels are written up to the first out-of-range byte; at one, INDEX_RANGE; with none,
`PHASE <- PRESENT`. -/
def execComposite (s : State) : Host.Outcome State Fault Refusal :=
  .next (match firstOutOfRange 0 s.block.scr.toList with
    | some (i, idx) => outOfRange s.config.oorPolicy i idx (s.setBlock (s.block.setPix (compositePix s.block)))
    | none => s.setBlock ((s.block.setPix (compositePix s.block)).setPhase Phase.present))

end Sys2Proof.Machine
end

