-- ==== Sys2Proof/Machine/InputSampler.lean ====
section
/-! DEFINITION. The input sampler: KEYDOWN, KEYUP, SAMPLE (40_input_sampler.md). -/

namespace Sys2Proof.Machine

/-- KEYDOWN (R120): `if key <= 14 then K[key] <- 1`. -/
def execKeydown (key : KeyCode) (s : State) : Host.Outcome State Fault Refusal :=
  .next (s.setBlock (s.block.setKeys (writeKey s.block.keys key true)))

/-- KEYUP (R121): `if key <= 14 then K[key] <- 0`. -/
def execKeyup (key : KeyCode) (s : State) : Host.Outcome State Fault Refusal :=
  .next (s.setBlock (s.block.setKeys (writeKey s.block.keys key false)))

/-- SAMPLE (R123): both masks from one snapshot of the key lines, then `PHASE <- STEP`. -/
def execSample (s : State) : Host.Outcome State Fault Refusal :=
  .next (s.setBlock ((s.block.setMasks (maskOf s.config.binding.p1 s.block.keys)
    (maskOf s.config.binding.p2 s.block.keys)).setPhase Phase.step))

end Sys2Proof.Machine
end

