-- ==== Sys2Proof/Machine/Reset.lean ====
section
/-! DEFINITION. RESET (70_reset_and_hazards.md). -/

namespace Sys2Proof.Machine

/-- RESET (R250), in any phase: every element of the block takes its value of R50, a free value where that is
unspecified. The environment, the trace and the configuration are not the block's (R40). -/
def execReset (s : State) : Host.Outcome State Fault Refusal :=
  .next ((s.setBlock (blockAfterReset s.config s.draws)).countDraw)

end Sys2Proof.Machine
end

