-- ==== Sys2Proof/Machine/Sequencer.lean ====
section
/-! DEFINITION. The sequencer: START, TICK, IDLE, WAIT, STEP, PRESENT, HALT (44_sequencer.md). -/

namespace Sys2Proof.Machine

/-- START accepted in IDLE (R192): `START_ERR` records the missing capabilities; with all four `CAP <- cap` and
`PHASE <- WAIT`. -/
def startAccepted (cap : BitVec 4) (s : State) : State :=
  if cap = 0b1111#4 then
    (s.setBlock (((s.block.setStartErr (missingCaps cap)).setCap cap).setPhase Phase.wait)).emit (.startStatus true)
  else
    (s.setBlock (s.block.setStartErr (missingCaps cap))).emit (.startStatus false)

/-- START (R192): in any phase but IDLE "the event is ignored, no state changes, nothing is emitted". -/
def execStart (cap : BitVec 4) (s : State) : Host.Outcome State Fault Refusal :=
  .next (if s.block.phase = Phase.idle then startAccepted cap s else s)

/-- TICK (R194): `if PHASE = WAIT then PHASE <- SAMPLE`; in any other phase ignored. -/
def execTick (s : State) : Host.Outcome State Fault Refusal :=
  .next (if s.block.phase = Phase.wait then s.setBlock (s.block.setPhase Phase.sample) else s)

/-- IDLE (R193): "the sequencer holds: it has no transition of its own" (log 17). -/
def execIdle (s : State) : Host.Outcome State Fault Refusal := .next s

/-- WAIT (R195): "it changes nothing" (log 17). -/
def execWait (s : State) : Host.Outcome State Fault Refusal := .next s

/-- HALT (R199): "no transition of its own and no event but RESET changes `PHASE`" (log 17). -/
def execHalt (s : State) : Host.Outcome State Fault Refusal := .next s

/-- STEP (R196): ACCESSOR_MISSING without the step capability; else, when the environment supplies the module's return,
`StepReq` with the two masks, the module as its step leaves it, `PHASE <- ACQUIRE`; while it does not, the sequencer stays
in STEP (R197, log 12). -/
def execStep (s : State) : Host.Outcome State Fault Refusal :=
  .next (if hasStep s.block.cap then
      match s.stepReturns with
      | [] => s
      | m :: rest =>
        ((s.stepReturned m rest).setBlock (s.block.setPhase Phase.acquire)).emit
          (.stepReq (maskArgument s.block.p1Mask) (maskArgument s.block.p2Mask))
    else haltEntry Cause.accessorMissing (missingCaps s.block.cap).toNat 0 s)

/-- PRESENT (R198): a copy of all of `PIX` is emitted, then `PHASE <- WAIT`. -/
def execPresent (s : State) : Host.Outcome State Fault Refusal :=
  .next ((s.setBlock (s.block.setPhase Phase.wait)).emit (.present s.block.pix))

end Sys2Proof.Machine
end

