-- ==== Sys2Proof/Machine/Dispatch.lean ====
section
/-! DEFINITION. One arm per operation (30_encoding.md R100). -/

namespace Sys2Proof.Machine

/-- The transition of one operation. -/
def exec (i : Instr) (s : State) : Host.Outcome State Fault Refusal :=
  match i with
  | .reset => Sys2Proof.Machine.execReset s
  | .start cap => Sys2Proof.Machine.execStart cap s
  | .tick => Sys2Proof.Machine.execTick s
  | .keydown key => Sys2Proof.Machine.execKeydown key s
  | .keyup key => Sys2Proof.Machine.execKeyup key s
  | .idle => Sys2Proof.Machine.execIdle s
  | .sample => Sys2Proof.Machine.execSample s
  | .step => Sys2Proof.Machine.execStep s
  | .acquire => Sys2Proof.Machine.execAcquire s
  | .xscreen => Sys2Proof.Machine.execXscreen s
  | .xpal => Sys2Proof.Machine.execXpal s
  | .decode => Sys2Proof.Machine.execDecode s
  | .composite => Sys2Proof.Machine.execComposite s
  | .present => Sys2Proof.Machine.execPresent s
  | .wait => Sys2Proof.Machine.execWait s
  | .init => Sys2Proof.Machine.execInit s
  | .halt => Sys2Proof.Machine.execHalt s

end Sys2Proof.Machine
end

