-- ==== Sys2Proof/Machine/Step.lean ====
section
/-! DEFINITION. One step: the next turn's word is fetched, decoded and run (00_scope.md R13, 60_exceptions.md R235). -/

namespace Sys2Proof.Machine

/-- One transition of the machine and its environment. `HEVT` code 0 is no event, so that turn changes nothing else
(R109, log 16); a reserved `PHASE` code is refused by name (R108). -/
def step (s : State) : Host.Outcome State Fault Refusal :=
  match decode s.fetch.1 with
  | .ok i => exec i s.fetch.2
  | .error .noEvent => .next s.fetch.2
  | .error (.reservedPhase code) => .refused (.reservedPhase code)

/-- The state in which the very next step runs the operation of a table row's bits (log 18). -/
def State.withFetchWord (s : State) (nbits w : Nat) : State := s.placeTableWord nbits w

end Sys2Proof.Machine
end

