-- ==== Sys2Proof/Safety.lean ====
section
/-! DEFINITION. The terms the claims use: what holds in every state a run reaches (`Inv`), the edges of the phase graph
(44_sequencer.md R190), which output may follow which, what counts as live at each phase (70_reset_and_hazards.md R252),
and the loops of the spec's pseudocode written as they stand. -/

namespace Sys2Proof.Machine

/-! ## Phases -/

/-- "No module loaded" (R31): the phases before a module is started. -/
def NotStarted (p : BitVec 4) : Prop := p = Phase.init ∨ p = Phase.idle

/-- The turn is a RESET event. -/
def Turn.isReset : Turn → Bool
  | .host code _ => code == HostEvent.reset
  | .seq | .key _ => false

/-- The operation the next step runs; none when the next word selects none. -/
def nextInstr (s : State) : Option Instr := (decode s.fetch.1).toOption

/-- The edges of R190's table, with the event or phase operation that takes each; and the cases in which `PHASE` stays:
an event that is ignored, a held phase, a module step that has not returned (R193 to R195, R197, R199). -/
inductive PhaseEdge : Option Instr → BitVec 4 → BitVec 4 → Prop
  | reset (p) : PhaseEdge (some .reset) p Phase.init
  | init : PhaseEdge (some .init) Phase.init Phase.idle
  | started : PhaseEdge (some (.start 0b1111#4)) Phase.idle Phase.wait
  | startFailed (cap) : cap ≠ 0b1111#4 → PhaseEdge (some (.start cap)) Phase.idle Phase.idle
  | startIgnored (cap p) : p ≠ Phase.idle → PhaseEdge (some (.start cap)) p p
  | tick : PhaseEdge (some .tick) Phase.wait Phase.sample
  | tickIgnored (p) : p ≠ Phase.wait → PhaseEdge (some .tick) p p
  | keydown (key p) : PhaseEdge (some (.keydown key)) p p
  | keyup (key p) : PhaseEdge (some (.keyup key)) p p
  | noEvent (p) : PhaseEdge none p p
  | idle : PhaseEdge (some .idle) Phase.idle Phase.idle
  | wait : PhaseEdge (some .wait) Phase.wait Phase.wait
  | halt : PhaseEdge (some .halt) Phase.halt Phase.halt
  | sample : PhaseEdge (some .sample) Phase.sample Phase.step
  | stepReturned : PhaseEdge (some .step) Phase.step Phase.acquire
  | stepPending : PhaseEdge (some .step) Phase.step Phase.step
  | acquire : PhaseEdge (some .acquire) Phase.acquire Phase.xscreen
  | xscreen : PhaseEdge (some .xscreen) Phase.xscreen Phase.xpal
  | xpal : PhaseEdge (some .xpal) Phase.xpal Phase.decode
  | decode : PhaseEdge (some .decode) Phase.decode Phase.composite
  | composite : PhaseEdge (some .composite) Phase.composite Phase.present
  | present : PhaseEdge (some .present) Phase.present Phase.wait
  | stepFault : PhaseEdge (some .step) Phase.step Phase.halt
  | acquireFault : PhaseEdge (some .acquire) Phase.acquire Phase.halt
  | xscreenFault : PhaseEdge (some .xscreen) Phase.xscreen Phase.halt
  | xpalFault : PhaseEdge (some .xpal) Phase.xpal Phase.halt
  | compositeFault : PhaseEdge (some .composite) Phase.composite Phase.halt

/-! ## What holds in every reached state -/

/-- Every alpha byte of a pixel buffer is 255 (R183). -/
def AlphaFull (pix : Vector Byte Config.pixBytes) : Prop :=
  ∀ i, i < Config.nPix → pix[4 * i + 3]? = some Config.alpha

/-- What every step keeps. Each field says which rule it comes from. -/
structure Inv (s : State) : Prop where
  /-- no reserved code in `PHASE` (R108) -/
  phaseLegal : phaseCodeLegal s.block.phase = true
  /-- the module's memory is in canonical form -/
  memCanonical : Memory.wf s.moduleNow.mem
  /-- the module has at most `2^PTR_WIDTH` bytes (R24, R60) -/
  moduleSizeBound : s.moduleNow.size ≤ 2 ^ s.config.ptrWidth
  /-- there are `NKEYS` key lines (R21) -/
  keyLines : s.block.keys.length = s.config.nKeys
  /-- the pointers have `PTR_WIDTH` bits (R23) -/
  ptrWidths : s.block.screenPtr < 2 ^ s.config.ptrWidth ∧ s.block.palettePtr < 2 ^ s.config.ptrWidth
  /-- `0 ≤ MEMSZ ≤ 2^PTR_WIDTH` (R24) -/
  memSzBound : s.block.memSz ≤ 2 ^ s.config.ptrWidth
  /-- the fault registers have `PTR_WIDTH + 1` bits (R35) -/
  faultInfoWidths : s.block.faultInfo0 < 2 ^ (s.config.ptrWidth + 1) ∧
    s.block.faultInfo1 < 2 ^ (s.config.ptrWidth + 1)
  /-- alpha is 255 once INIT has run (R183) -/
  alpha : s.block.phase ≠ Phase.init → AlphaFull s.block.pix
  /-- a fault is recorded in HALT and nowhere else (R199, R225, R227) -/
  faultIffHalt : s.block.phase = Phase.halt ↔ s.block.faultCause ≠ Cause.none
  /-- the recorded cause is one of R216's; cause 1 "cannot occur" (R216) -/
  faultKnown : s.block.faultCause = Cause.none ∨ s.block.faultCause = Cause.oobScreen ∨
    s.block.faultCause = Cause.oobPalette ∨ s.block.faultCause = Cause.indexRange
  /-- "Zero when `FAULT_CAUSE = 0`" (R35) -/
  faultInfoZero : s.block.faultCause = Cause.none → s.block.faultInfo0 = 0 ∧ s.block.faultInfo1 = 0
  /-- no module is attached before a successful START (R50, R192) -/
  capBefore : NotStarted s.block.phase → s.block.cap = 0#4
  /-- a started module has all four capabilities (R140, R192) -/
  capAfter : ¬ NotStarted s.block.phase → s.block.cap = 0b1111#4
  /-- "`START_ERR = 0` after a START that succeeded" (R36) -/
  startErrAfter : s.block.phase ≠ Phase.idle → s.block.startErr = 0#4
  /-- the latched size is the size of the module's memory while the copies are made (R78) -/
  viewCurrent : s.block.phase = Phase.xscreen ∨ s.block.phase = Phase.xpal →
    s.block.memSz = s.moduleNow.size

/-! ## The observable trace -/

/-- Which output may come directly after which in a trace; `none` is the start of the trace. A frame is one `StepReq` and
then one `Present` (R196, R198), a `Fault` ends a session (R227), and a session begins with a successful START (R192),
before which and after which RESET lets another begin (R250). -/
def mayFollow : Option Output → Output → Prop
  | _, .startStatus _ => True
  | some (.startStatus true), .stepReq _ _ => True
  | some (.present _), .stepReq _ _ => True
  | some (.stepReq _ _), .present _ => True
  | some (.stepReq _ _), .fault _ _ _ => True
  | _, _ => False

/-- Every output of a trace may follow the one before it. -/
def TraceOrdered : Option Output → List Output → Prop
  | _, [] => True
  | last, o :: rest => mayFollow last o ∧ TraceOrdered (some o) rest

/-- The trace so far and the phase it is in agree: every output may follow the one before it; between a start or a `Present`
and the next `StepReq` the sequencer is in WAIT, SAMPLE or STEP; and from ACQUIRE to PRESENT the last output is the `StepReq`
of the frame (R200, R226). -/
structure TraceInv (s : State) : Prop where
  ordered : TraceOrdered none s.trace
  beforeStep : s.block.phase = Phase.wait ∨ s.block.phase = Phase.sample ∨ s.block.phase = Phase.step →
    s.trace.getLast? = some (.startStatus true) ∨ ∃ frame, s.trace.getLast? = some (.present frame)
  afterStep : s.block.phase = Phase.acquire ∨ s.block.phase = Phase.xscreen ∨ s.block.phase = Phase.xpal ∨
    s.block.phase = Phase.decode ∨ s.block.phase = Phase.composite ∨ s.block.phase = Phase.present →
    ∃ p1 p2, s.trace.getLast? = some (.stepReq p1 p2)

/-! ## What can still matter -/

/-- Two states that agree on everything that some later operation can read before writing it (R252, R48). -/
structure SameLive (s t : State) : Prop where
  keys : s.block.keys = t.block.keys
  phase : s.block.phase = t.block.phase
  cap : s.block.cap = t.block.cap
  startErr : s.block.startErr = t.block.startErr
  faultCause : s.block.faultCause = t.block.faultCause
  faultInfo0 : s.block.faultInfo0 = t.block.faultInfo0
  faultInfo1 : s.block.faultInfo1 = t.block.faultInfo1
  moduleNow : s.moduleNow = t.moduleNow
  stepReturns : s.stepReturns = t.stepReturns
  queryReturns : s.queryReturns = t.queryReturns
  turns : s.turns = t.turns
  trace : s.trace = t.trace
  config : s.config = t.config
  /-- the masks are read by STEP only -/
  masks : s.block.phase = Phase.step → s.block.p1Mask = t.block.p1Mask ∧ s.block.p2Mask = t.block.p2Mask
  /-- the screen pointer is read by XSCREEN only -/
  screenPtr : s.block.phase = Phase.xscreen → s.block.screenPtr = t.block.screenPtr
  /-- the palette pointer and the size are read by XPAL, the size by XSCREEN too -/
  view : s.block.phase = Phase.xscreen ∨ s.block.phase = Phase.xpal →
    s.block.palettePtr = t.block.palettePtr ∧ s.block.memSz = t.block.memSz
  /-- the screen copy is read by COMPOSITE only -/
  scr : s.block.phase = Phase.xpal ∨ s.block.phase = Phase.decode ∨ s.block.phase = Phase.composite →
    s.block.scr = t.block.scr
  /-- the palette copy is read by DECODE only -/
  pal : s.block.phase = Phase.decode → s.block.pal = t.block.pal
  /-- the colour table is read by COMPOSITE only -/
  ct : s.block.phase = Phase.composite → s.block.ct = t.block.ct
  /-- the alpha bytes are written by INIT and never again -/
  alpha : s.block.phase ≠ Phase.init →
    ∀ i, i < Config.nPix → s.block.pix[4 * i + 3]? = t.block.pix[4 * i + 3]?
  /-- all of `PIX` is read by PRESENT only -/
  pix : s.block.phase = Phase.present → s.block.pix = t.block.pix

/-- Two states that differ at most in the elements whose reset content R50 calls unspecified, and in the model's own
counter of free values. -/
structure SameButUnspecified (s t : State) : Prop where
  keys : s.block.keys = t.block.keys
  phase : s.block.phase = t.block.phase
  cap : s.block.cap = t.block.cap
  startErr : s.block.startErr = t.block.startErr
  faultCause : s.block.faultCause = t.block.faultCause
  faultInfo0 : s.block.faultInfo0 = t.block.faultInfo0
  faultInfo1 : s.block.faultInfo1 = t.block.faultInfo1
  moduleNow : s.moduleNow = t.moduleNow
  stepReturns : s.stepReturns = t.stepReturns
  queryReturns : s.queryReturns = t.queryReturns
  turns : s.turns = t.turns
  trace : s.trace = t.trace
  config : s.config = t.config

/-! ## The pseudocode's loops as they stand -/

/-- `PixWrite(j, v)` (R12): `PIX[j] <- v`. -/
def pixWrite (pix : Vector Byte Config.pixBytes) (j : Nat) (v : Byte) : Vector Byte Config.pixBytes :=
  pix.setIfInBounds j v

/-- R175's loop: `for i in a..a+n: PixWrite(4i + 3, 255)`. -/
def initLoop : Nat → Nat → Vector Byte Config.pixBytes → Vector Byte Config.pixBytes
  | 0, _, pix => pix
  | n + 1, i, pix => initLoop n (i + 1) (pixWrite pix (4 * i + 3) Config.alpha)

/-- R177's loop from pixel `i`, `n` pixels to go: the test of the index, the three writes; with the `PIX` so far, and the
pixel number and byte of the fault where one is raised. -/
def compositeLoop (ct : Vector Rgb Config.nPal) (scr : Vector Byte Config.nPix) :
    Nat → Nat → Vector Byte Config.pixBytes → Vector Byte Config.pixBytes × Option (Nat × Byte)
  | 0, _, pix => (pix, none)
  | n + 1, i, pix =>
    let idx := scr[i]?.getD 0
    if 31 < idx.toNat then (pix, some (i, idx))
    else
      let c := ct[idx.toNat]?.getD default
      compositeLoop ct scr n (i + 1)
        (pixWrite (pixWrite (pixWrite pix (4 * i) c.r) (4 * i + 1) c.g) (4 * i + 2) c.b)

end Sys2Proof.Machine
end

