-- ==== Sys2Proof/Certificates/Slice0/Obligations.lean ====
section
/-! DEFINITION. The statements for the provers. Each docstring names the rule of spec/ it formalises. Where the Lean says
`t = { s with … }` it states the whole frame: every element, the module's memory (every byte of it), the scripts, the
turns, the trace and the configuration are as before but for the fields named. -/

open Sys2Proof Sys2Proof.Machine

/-! ## Encoding -/

/-- Decoding what the encoder writes gives the operation back, every operand at every value, and the encoder writes
well-formed words only (30_encoding.md R101 to R105). -/
def Obligations.DecodingAnEncodedOperationGivesItBack : Prop :=
  ∀ i : Instr, decode (encode i) = .ok i ∧ (encode i).wellFormed = true

/-- Every well-formed word decodes, and encoding the result gives the same word (30_encoding.md R105). -/
def Obligations.EveryWellFormedWordIsAnEncoding : Prop :=
  ∀ w : OpWord, w.wellFormed = true → ∃ i, decode w = .ok i ∧ encode i = w

/-- A word selects by mask and value exactly the row of the operation it decodes to, and a word that is refused selects no
row (30_encoding.md R105). -/
def Obligations.OpcodeTableSelectsTheDecodedRow : Prop :=
  (∀ w i, decode w = .ok i → ∃ row, selectedRows w = [row] ∧ row.mnemonic = i.mnemonic) ∧
  (∀ w e, decode w = .error e → selectedRows w = [])

/-- Words written out from the tables of 30_encoding.md R101 (phases), R102 (key events), R103 (host events). -/
def Obligations.WordsOfTheEncodingTablesDecode : Prop :=
  decode (.phase 0b0001#4) = .ok .sample ∧ decode (.phase 0b0011#4) = .ok .acquire ∧
  decode (.phase 0b0110#4) = .ok .decode ∧ decode (.phase 0b0111#4) = .ok .composite ∧
  decode (.phase 0b1110#4) = .ok .init ∧ decode (.phase 0b1111#4) = .ok .halt ∧
  decode (.kevt 0b10000#5) = .ok (.keydown 0#4) ∧ decode (.kevt 0b00101#5) = .ok (.keyup 5#4) ∧
  decode (.kevt 0b11110#5) = .ok (.keydown 14#4) ∧
  decode (.hevt 0b01#2 0#4) = .ok .tick ∧ decode (.hevt 0b10#2 0b0111#4) = .ok (.start 0b0111#4) ∧
  decode (.hevt 0b11#2 0#4) = .ok .reset ∧ decode (.hevt 0b00#2 0#4) = .error .noEvent

/-- The reserved `PHASE` codes 10 to 13 (30_encoding.md R108, the spec's decision D6): the sequencer refuses to move in them,
and no operation writes one of them into `PHASE`. -/
def Obligations.ReservedPhaseCodesAreRefusedAndNeverWritten : Prop :=
  (∀ s : State, (s.turns = [] ∨ ∃ rest, s.turns = .seq :: rest) →
    10 ≤ s.block.phase.toNat → s.block.phase.toNat ≤ 13 →
    step s = .refused (.reservedPhase s.block.phase)) ∧
  (∀ i s t, exec i s = .next t → 10 ≤ t.block.phase.toNat → t.block.phase.toNat ≤ 13 →
    t.block.phase = s.block.phase)

/-! ## Steps -/

/-- A step runs the decoded operation: the sequencer's turn (or no turn listed) runs the operation `PHASE` names, an event's
turn runs the event's; the turn is taken off the list and nothing else is done around it; `HEVT` code 0 is no event
(30_encoding.md R105, R109; logs 1 and 16 for the list of turns). -/
def Obligations.StepRunsTheDecodedOperation : Prop :=
  (∀ s i, s.turns = [] → decode (.phase s.block.phase) = .ok i → step s = exec i s) ∧
  (∀ s rest i, s.turns = .seq :: rest → decode (.phase s.block.phase) = .ok i →
    step s = exec i { s with turns := rest }) ∧
  (∀ s rest code cap i, s.turns = .host code cap :: rest → decode (.hevt code cap) = .ok i →
    step s = exec i { s with turns := rest }) ∧
  (∀ s rest word i, s.turns = .key word :: rest → decode (.kevt word) = .ok i →
    step s = exec i { s with turns := rest }) ∧
  (∀ s rest cap, s.turns = .host 0#2 cap :: rest → step s = .next { s with turns := rest })

/-- A table row's bits placed by `withFetchWord` are what the very next step runs (log 18). -/
def Obligations.PlacedWordIsRunNext : Prop :=
  ∀ (s : State) (nbits w : Nat) (i : Instr), decodeTableWord nbits w = some i →
    ∃ p, step (s.withFetchWord nbits w) = exec i { s with block := { s.block with phase := p } } ∧
      (p = s.block.phase ∨ p = BitVec.ofNat 4 w)

/-! ## Input sampler -/

/-- KEYDOWN (40_input_sampler.md R120): its encoding, the one line it sets, code 15 setting none, everything else unchanged
(the masks and `PHASE` among it), in every phase; the next SAMPLE sees the key in every input it is bound to. It speaks of every
number of lines `NKEYS`: that a code from `NKEYS` to 14, which has no line, changes nothing is the model's reading (DEDUCED,
log 29). -/
def Obligations.KeydownSetsExactlyItsLine : Prop :=
  ∀ (key : KeyCode) (s : State), decode (.kevt (1#1 ++ key)) = .ok (.keydown key) ∧
    ∃ t, exec (.keydown key) s = .next t ∧
      t = { s with block := { s.block with keys := t.block.keys } } ∧
      t.block.keys.length = s.block.keys.length ∧
      (∀ k, k < s.block.keys.length → t.block.keys[k]? =
        if k = key.toNat ∧ key ≠ 15#4 then some true else s.block.keys[k]?) ∧
      (key = 15#4 → t = s) ∧
      (key ≠ 15#4 → key.toNat < s.block.keys.length → ∃ u, exec .sample t = .next u ∧
        (∀ n codes, s.config.binding.p1[n]? = some codes → key ∈ codes → u.block.p1Mask.getLsbD n = true) ∧
        (∀ n codes, s.config.binding.p2[n]? = some codes → key ∈ codes → u.block.p2Mask.getLsbD n = true))

/-- KEYUP (40_input_sampler.md R121): its encoding, the one line it clears, code 15 clearing none, everything else unchanged,
in every phase. It speaks of every number of lines `NKEYS`: that a code from `NKEYS` to 14, which has no line, changes nothing is
the model's reading (DEDUCED, log 29). -/
def Obligations.KeyupClearsExactlyItsLine : Prop :=
  ∀ (key : KeyCode) (s : State), decode (.kevt (0#1 ++ key)) = .ok (.keyup key) ∧
    ∃ t, exec (.keyup key) s = .next t ∧
      t = { s with block := { s.block with keys := t.block.keys } } ∧
      t.block.keys.length = s.block.keys.length ∧
      (∀ k, k < s.block.keys.length → t.block.keys[k]? =
        if k = key.toNat ∧ key ≠ 15#4 then some false else s.block.keys[k]?) ∧
      (key = 15#4 → t = s)

/-- Last write wins (40_input_sampler.md R122 (a), (b), (d), an inference the spec marks as derived): after any sequence of
key events a line holds the `down` bit of the last event with its code, and what it held before where there was none;
nothing else changes (a code without a line changes no line: DEDUCED, log 29). -/
def Obligations.KeyLinesHoldTheLastEventOfTheirCode : Prop :=
  ∀ (events : List (BitVec 5)) (s : State), s.turns = events.map Turn.key →
    ∃ t, Host.Core.run Sys2Proof.core events.length s = .next t ∧
      t = { s with turns := [], block := { s.block with keys := t.block.keys } } ∧
      t.block.keys.length = s.block.keys.length ∧
      ∀ k, k < s.block.keys.length → t.block.keys[k]? =
        match (events.filter fun e => (keyField e).toNat == k && keyField e != 15#4).getLast? with
        | some e => some (e.getLsbD 4)
        | none => s.block.keys[k]?

/-- SAMPLE (40_input_sampler.md R123, the spec's decision D22; R124's closed form for any binding table): bit `n` of a player's
mask is the OR of the lines bound to input `n`, both masks from the same key lines, a code without a line
reading as not held (DEDUCED, log 29); then `PHASE <- STEP`; everything else unchanged. -/
def Obligations.SampleOrsTheBoundLinesIntoTheMasks : Prop :=
  ∀ s : State, ∃ t, exec .sample s = .next t ∧
    t = { s with block := { s.block with p1Mask := t.block.p1Mask, p2Mask := t.block.p2Mask, phase := 0b0010#4 } } ∧
    (∀ n codes, s.config.binding.p1[n]? = some codes →
      t.block.p1Mask.getLsbD n = codes.any fun k => s.block.keys[k.toNat]?.getD false) ∧
    (∀ n codes, s.config.binding.p2[n]? = some codes →
      t.block.p2Mask.getLsbD n = codes.any fun k => s.block.keys[k.toNat]?.getD false)

/-- The masks under the default binding table, bit by bit (40_input_sampler.md R124, R125; the lines of A and S are the spec's
decision D5, PRESUMED in log 8; a line that `NKEYS` leaves out reads as not held, DEDUCED, log 29). -/
def Obligations.DefaultBindingGivesTheMasksOfTheTable : Prop :=
  ∀ s : State, s.config.binding = defaultBinding → ∃ t, exec .sample s = .next t ∧
    let K := fun k : Nat => s.block.keys[k]?.getD false
    (t.block.p1Mask.getLsbD 0 = K 0 ∧ t.block.p1Mask.getLsbD 1 = K 1 ∧ t.block.p1Mask.getLsbD 2 = K 2 ∧
     t.block.p1Mask.getLsbD 3 = K 3 ∧ t.block.p1Mask.getLsbD 4 = K 4 ∧ t.block.p1Mask.getLsbD 5 = (K 5 || K 6)) ∧
    (t.block.p2Mask.getLsbD 0 = K 7 ∧ t.block.p2Mask.getLsbD 1 = K 9 ∧ t.block.p2Mask.getLsbD 2 = K 8 ∧
     t.block.p2Mask.getLsbD 3 = K 10 ∧ t.block.p2Mask.getLsbD 4 = (K 11 || K 12) ∧
     t.block.p2Mask.getLsbD 5 = (K 13 || K 14))

/-- Independence of the players (40_input_sampler.md R126 (b), derived): under the default table player 1's mask depends only on
lines 0 to 6 and player 2's only on lines 7 to 14. -/
def Obligations.PlayersMasksAreIndependent : Prop :=
  ∀ s₁ s₂ t₁ t₂ : State, s₁.config.binding = defaultBinding → s₂.config.binding = defaultBinding →
    exec .sample s₁ = .next t₁ → exec .sample s₂ = .next t₂ →
    ((∀ k, k < 7 → s₁.block.keys[k]? = s₂.block.keys[k]?) → t₁.block.p1Mask = t₂.block.p1Mask) ∧
    ((∀ k, 7 ≤ k → k < 15 → s₁.block.keys[k]? = s₂.block.keys[k]?) → t₁.block.p2Mask = t₂.block.p2Mask)

/-- Every pair of masks is reachable (40_input_sampler.md R126 (c), (e), derived): under the default binding and its 15 lines,
whatever two masks are wanted, some key lines give them; so no input excludes another. -/
def Obligations.EveryPairOfMasksCanBeSampled : Prop :=
  ∀ (m₁ m₂ : BitVec 6) (s : State), s.config.binding = defaultBinding → s.config.nKeys = 15 →
    ∃ keys t, keys.length = s.config.nKeys ∧ exec .sample { s with block := { s.block with keys := keys } } = .next t ∧
      t.block.p1Mask = m₁ ∧ t.block.p2Mask = m₂

/-! ## Buffer reader -/

/-- ACQUIRE with the three capabilities (41_buffer_reader.md R140, the spec's decisions D10, D13 and D18): the module's answers are
latched at the width of their ports and elements (10_state.md R23, R24, R45; an answer that has that width is latched as it is), `PHASE <- XSCREEN`,
everything else of the block unchanged. The queries may leave the module changed (20_memory.md R78): what the environment's
next entry says it has become, of at most `2^PTR_WIDTH` bytes (log 27), or as it was where there is none (log 13). -/
def Obligations.AcquireLatchesTheModulesAnswers : Prop :=
  ∀ s : State, s.block.cap.getLsbD 1 = true → s.block.cap.getLsbD 2 = true → s.block.cap.getLsbD 3 = true →
    (s.queryReturns = [] → exec .acquire s = .next { s with block := { s.block with
      screenPtr := trunc s.config.ptrWidth s.moduleNow.screenPtr
      palettePtr := trunc s.config.ptrWidth s.moduleNow.palettePtr
      memSz := trunc (s.config.ptrWidth + 1) s.moduleNow.size
      phase := 4#4 } }) ∧
    (∀ m rest, s.queryReturns = m :: rest → ∃ t, exec .acquire s = .next t ∧
      t = { s with
        block := { s.block with
          screenPtr := trunc s.config.ptrWidth m.screenPtr
          palettePtr := trunc s.config.ptrWidth m.palettePtr
          memSz := min m.size (2 ^ s.config.ptrWidth)
          phase := 4#4 }
        moduleNow := { m with mem := t.moduleNow.mem, size := min m.size (2 ^ s.config.ptrWidth) }
        queryReturns := rest } ∧
      ∀ a, Memory.read t.moduleNow.mem a = Memory.read m.mem a)

/-- A missing capability (44_sequencer.md R196, 41_buffer_reader.md R140, 60_exceptions.md R216 cause 1 and R225; the spec's
decisions D17 and D18): STEP without bit 0 and ACQUIRE without bit 1, 2 or 3 enter HALT with ACCESSOR_MISSING and the missing
capabilities, the registers at their width (00_scope.md R11, 10_state.md R35; log 28), and change nothing else. -/
def Obligations.MissingCapabilityHalts : Prop :=
  ∀ (s : State) (i : Instr),
    (i = .step ∧ s.block.cap.getLsbD 0 = false) ∨
    (i = .acquire ∧ (s.block.cap.getLsbD 1 = false ∨ s.block.cap.getLsbD 2 = false ∨ s.block.cap.getLsbD 3 = false)) →
    exec i s = .next { s with
      block := { s.block with
        faultCause := 1#3
        faultInfo0 := trunc (s.config.ptrWidth + 1) (15 - s.block.cap.toNat)
        faultInfo1 := 0, phase := 15#4 }
      trace := s.trace ++ [.fault 1#3 (15 - s.block.cap.toNat) 0] }

/-- XSCREEN on a region that fits (41_buffer_reader.md R142 and R143 (a), (e), (f), (g); the spec's decision D12): the 76800 bytes
are copied as they are, `PHASE <- XPAL`, everything else unchanged, the module's memory included. -/
def Obligations.XscreenCopiesTheScreenRegion : Prop :=
  ∀ s : State, s.block.screenPtr + 76800 ≤ s.block.memSz →
    s.block.screenPtr + 76800 ≤ s.moduleNow.size →
    ∃ t, exec .xscreen s = .next t ∧
      t = { s with block := { s.block with scr := t.block.scr, phase := 5#4 } } ∧
      ∀ j, j < 76800 → t.block.scr[j]? = some (Memory.read s.moduleNow.mem (s.block.screenPtr + j))

/-- XPAL on a region that fits (41_buffer_reader.md R144 and R145; the spec's decision D12): the 64 bytes are copied as they are,
`PHASE <- DECODE`, everything else unchanged, the module's memory included. -/
def Obligations.XpalCopiesThePaletteRegion : Prop :=
  ∀ s : State, s.block.palettePtr + 64 ≤ s.block.memSz →
    s.block.palettePtr + 64 ≤ s.moduleNow.size →
    ∃ t, exec .xpal s = .next t ∧
      t = { s with block := { s.block with pal := t.block.pal, phase := 6#4 } } ∧
      ∀ j, j < 64 → t.block.pal[j]? = some (Memory.read s.moduleNow.mem (s.block.palettePtr + j))

/-- A region that does not fit (20_memory.md R74, 60_exceptions.md R216 causes 2 and 3 and R225; the spec's decisions D12 and
D17): HALT with the pointer and the size recorded at the registers' width (10_state.md R35; it holds every value the two elements
have), no byte copied, nothing else changed; the sum does not wrap. -/
def Obligations.OutOfBoundsRegionHalts : Prop :=
  (∀ s : State, s.block.memSz < s.block.screenPtr + 76800 →
    exec .xscreen s = .next { s with
      block := { s.block with
        faultCause := 2#3
        faultInfo0 := trunc (s.config.ptrWidth + 1) s.block.screenPtr
        faultInfo1 := trunc (s.config.ptrWidth + 1) s.block.memSz
        phase := 15#4 }
      trace := s.trace ++ [.fault 2#3 s.block.screenPtr s.block.memSz] }) ∧
  (∀ s : State, s.block.memSz < s.block.palettePtr + 64 →
    exec .xpal s = .next { s with
      block := { s.block with
        faultCause := 3#3
        faultInfo0 := trunc (s.config.ptrWidth + 1) s.block.palettePtr
        faultInfo1 := trunc (s.config.ptrWidth + 1) s.block.memSz
        phase := 15#4 }
      trace := s.trace ++ [.fault 3#3 s.block.palettePtr s.block.memSz] })

/-- Where the latched size promises more than the module's memory has, the copy would leave `MemRead`'s domain
(20_memory.md R62, the spec's decision D12): the machine stops by name. No run reaches such a state (log 14). -/
def Obligations.CopyOutsideTheModulesMemoryStops : Prop :=
  (∀ s : State, s.block.screenPtr + 76800 ≤ s.block.memSz →
    s.moduleNow.size < s.block.screenPtr + 76800 → exec .xscreen s = .fault .memReadUndefined) ∧
  (∀ s : State, s.block.palettePtr + 64 ≤ s.block.memSz →
    s.moduleNow.size < s.block.palettePtr + 64 → exec .xpal s = .fault .memReadUndefined)

/-- Both copies are of one state of the module's memory, and snapshots (20_memory.md R69, R71): after XSCREEN and XPAL the copies
are the bytes of the memory that was there before XSCREEN; no operation but XSCREEN and XPAL (and RESET) changes them
afterwards, whatever the memory becomes; and DECODE and COMPOSITE do the same whatever the module's memory is. -/
def Obligations.CopiesAreASnapshotOfOneMemory : Prop :=
  (∀ s t u : State, exec .xscreen s = .next t → t.block.phase = 5#4 → exec .xpal t = .next u → u.block.phase = 6#4 →
    (∀ j, j < 76800 → u.block.scr[j]? = some (Memory.read s.moduleNow.mem (s.block.screenPtr + j))) ∧
    (∀ j, j < 64 → u.block.pal[j]? = some (Memory.read s.moduleNow.mem (s.block.palettePtr + j)))) ∧
  (∀ (i : Instr) (s t : State), exec i s = .next t → i ≠ .reset →
    (i ≠ .xscreen → t.block.scr = s.block.scr) ∧ (i ≠ .xpal → t.block.pal = s.block.pal)) ∧
  (∀ (i : Instr) (s t : State) (m : ComputeModule), i = .decode ∨ i = .composite → exec i s = .next t →
    exec i { s with moduleNow := m } = .next { t with moduleNow := m })

/-- The block never writes the module's memory (20_memory.md R63): every operation but STEP and ACQUIRE leaves the module as it
is, and those two leave it as it is or as the environment says the call left it, of at most `2^PTR_WIDTH` bytes (log 27). -/
def Obligations.OnlyTheModuleChangesItsMemory : Prop :=
  ∀ (i : Instr) (s t : State), exec i s = .next t →
    (i ≠ .step → i ≠ .acquire → t.moduleNow = s.moduleNow) ∧
    (i = .step → t.moduleNow = s.moduleNow ∨ ∃ m rest, s.stepReturns = m :: rest ∧ t.stepReturns = rest ∧
      t.moduleNow = { m with mem := t.moduleNow.mem, size := min m.size (2 ^ s.config.ptrWidth) } ∧
      ∀ a, Memory.read t.moduleNow.mem a = Memory.read m.mem a) ∧
    (i = .acquire → t.moduleNow = s.moduleNow ∨ ∃ m rest, s.queryReturns = m :: rest ∧ t.queryReturns = rest ∧
      t.moduleNow = { m with mem := t.moduleNow.mem, size := min m.size (2 ^ s.config.ptrWidth) } ∧
      ∀ a, Memory.read t.moduleNow.mem a = Memory.read m.mem a)

/-! ## Colour decoder -/

/-- DECODE (42_color_decoder.md R160, R161, R163, with `GREEN` the configured function): every entry of `CT` from its two bytes,
red truncated and not saturated, `PHASE <- COMPOSITE`, everything else unchanged. -/
def Obligations.DecodeExpandsEveryPaletteEntry : Prop :=
  ∀ s : State, ∃ t, exec .decode s = .next t ∧
    t = { s with block := { s.block with ct := t.block.ct, phase := 0b0111#4 } } ∧
    ∀ (n : Nat) (b0 b1 : Byte), n < 32 → s.block.pal[2 * n]? = some b0 → s.block.pal[2 * n + 1]? = some b1 →
      ∃ c, t.block.ct[n]? = some c ∧
        c.r.toNat = (b0.toNat * 16) % 256 ∧ c.r = (b0 &&& 0x0F#8) <<< 4 ∧
        s.config.green[b1.toNat]? = some c.g ∧
        c.b = (b1 &&& 0x0F#8) <<< 4

/-- DECODE is pure (42_color_decoder.md R164): `CT` depends on `PAL` and `GREEN` only, and entry `n` on its own two bytes only. -/
def Obligations.DecodeIsPureAndEntryByEntry : Prop :=
  ∀ s₁ s₂ t₁ t₂ : State, s₁.config.green = s₂.config.green →
    exec .decode s₁ = .next t₁ → exec .decode s₂ = .next t₂ →
    (s₁.block.pal = s₂.block.pal → t₁.block.ct = t₂.block.ct) ∧
    (∀ n, n < 32 → s₁.block.pal[2 * n]? = s₂.block.pal[2 * n]? →
      s₁.block.pal[2 * n + 1]? = s₂.block.pal[2 * n + 1]? → t₁.block.ct[n]? = t₂.block.ct[n]?)

/-- With the default `GREEN` (42_color_decoder.md R162, the spec's decision D14, log 9; R165, derived): green is the high nibble of
`b1` in place, and every channel of every entry has low nibble 0. -/
def Obligations.DefaultColoursAreHighNibbles : Prop :=
  ∀ s t : State, s.config.green = defaultGreen → exec .decode s = .next t →
    ∀ (n : Nat) (c : Rgb) (b1 : Byte), t.block.ct[n]? = some c → s.block.pal[2 * n + 1]? = some b1 →
      c.g = b1 &&& 0xF0#8 ∧ c.r.toNat % 16 = 0 ∧ c.g.toNat % 16 = 0 ∧ c.b.toNat % 16 = 0

/-! ## Compositor -/

/-- INIT (43_compositor.md R175): 255 into every alpha byte, no other byte of `PIX` written, `PHASE <- IDLE`, everything else
unchanged. -/
def Obligations.InitWritesTheAlphaBytesOnly : Prop :=
  ∀ s : State, ∃ t, exec .init s = .next t ∧
    t = { s with block := { s.block with pix := t.block.pix, phase := 0b0000#4 } } ∧
    (∀ i, i < 76800 → t.block.pix[4 * i + 3]? = some 255#8) ∧
    (∀ j, j < 307200 → j % 4 ≠ 3 → t.block.pix[j]? = s.block.pix[j]?)

/-- COMPOSITE on a screen whose bytes are all valid indices (43_compositor.md R180, first sentence, and R179): every pixel's three
colour bytes are those of its table entry, its alpha byte is untouched, `PHASE <- PRESENT`, everything else unchanged. -/
def Obligations.CompositeMapsEveryPixelThroughTheTable : Prop :=
  ∀ s : State, (∀ (i : Nat) (x : Byte), s.block.scr[i]? = some x → x.toNat ≤ 31) →
    ∃ t, exec .composite s = .next t ∧
      t = { s with block := { s.block with pix := t.block.pix, phase := 8#4 } } ∧
      ∀ (i : Nat) (x : Byte) (c : Rgb), i < 76800 → s.block.scr[i]? = some x → s.block.ct[x.toNat]? = some c →
        t.block.pix[4 * i]? = some c.r ∧ t.block.pix[4 * i + 1]? = some c.g ∧
        t.block.pix[4 * i + 2]? = some c.b ∧ t.block.pix[4 * i + 3]? = s.block.pix[4 * i + 3]?

/-- COMPOSITE on a screen with a byte above 31 (43_compositor.md R178 and 60_exceptions.md R216 cause 4, R225, R226; the spec's
decisions D16 and D17): HALT with the lowest such pixel and its byte recorded at the registers' width (10_state.md R35; log 28); the
pixels before it have their new colours, every byte from it on and every alpha byte is as before; nothing else changes. -/
def Obligations.CompositeHaltsAtTheLowestInvalidIndex : Prop :=
  ∀ (s : State) (i : Nat) (x : Byte), s.block.scr[i]? = some x → 31 < x.toNat →
    (∀ (j : Nat) (y : Byte), j < i → s.block.scr[j]? = some y → y.toNat ≤ 31) →
    ∃ t, exec .composite s = .next t ∧
      t = { s with
        block := { s.block with
          pix := t.block.pix, faultCause := 4#3
          faultInfo0 := trunc (s.config.ptrWidth + 1) i
          faultInfo1 := trunc (s.config.ptrWidth + 1) x.toNat,
          phase := 15#4 }
        trace := s.trace ++ [.fault 4#3 i x.toNat] } ∧
      (∀ (j : Nat) (y : Byte) (c : Rgb), j < i → s.block.scr[j]? = some y → s.block.ct[y.toNat]? = some c →
        t.block.pix[4 * j]? = some c.r ∧ t.block.pix[4 * j + 1]? = some c.g ∧
        t.block.pix[4 * j + 2]? = some c.b ∧ t.block.pix[4 * j + 3]? = s.block.pix[4 * j + 3]?) ∧
      (∀ k, 4 * i ≤ k → t.block.pix[k]? = s.block.pix[k]?)

/-- COMPOSITE is R177's loop, pixel by pixel with its test and its three writes (43_compositor.md R177), and INIT is R175's loop
(43_compositor.md R175). -/
def Obligations.CompositeAndInitAreTheirPseudocode : Prop :=
  (∀ s : State, exec .composite s = .next (
    match compositeLoop s.block.ct s.block.scr 76800 0 s.block.pix with
    | (pix, none) => { s with block := { s.block with pix := pix, phase := 8#4 } }
    | (pix, some (i, idx)) => { s with
        block := { s.block with
          pix := pix, faultCause := 4#3
          faultInfo0 := trunc (s.config.ptrWidth + 1) i
          faultInfo1 := trunc (s.config.ptrWidth + 1) idx.toNat,
          phase := 15#4 }
        trace := s.trace ++ [.fault 4#3 i idx.toNat] })) ∧
  (∀ s : State, exec .init s = .next
    { s with block := { s.block with pix := initLoop 76800 0 s.block.pix, phase := 0#4 } })

/-- After a COMPOSITE that completes (43_compositor.md R180), with the alpha bytes of INIT in place: the four bytes of every pixel
are the three channels of the table's entry and 255. And where DECODE filled the table: for every pixel `i`, with `n = SCR[i]`,
`b0 = PAL[2n]`, `b1 = PAL[2n+1]`, they are `(b0 & 0x0F) << 4`, `GREEN(b1)`, `(b1 & 0x0F) << 4` and 255. -/
def Obligations.PixelsShowTheDecodedPalette : Prop :=
  (∀ t u : State, exec .composite t = .next u → u.block.phase = 8#4 → AlphaFull t.block.pix →
    ∀ (i : Nat) (n : Byte), i < 76800 → t.block.scr[i]? = some n →
      ∃ c, t.block.ct[n.toNat]? = some c ∧
        u.block.pix[4 * i]? = some c.r ∧ u.block.pix[4 * i + 1]? = some c.g ∧ u.block.pix[4 * i + 2]? = some c.b ∧
        u.block.pix[4 * i + 3]? = some 255#8) ∧
  (∀ s t u : State, exec .decode s = .next t → exec .composite t = .next u → u.block.phase = 8#4 →
    AlphaFull s.block.pix →
    ∀ (i : Nat) (n b0 b1 : Byte), i < 76800 → s.block.scr[i]? = some n →
      s.block.pal[2 * n.toNat]? = some b0 → s.block.pal[2 * n.toNat + 1]? = some b1 →
      u.block.pix[4 * i]? = some ((b0 &&& 0x0F#8) <<< 4) ∧
      u.block.pix[4 * i + 1]? = s.config.green[b1.toNat]? ∧
      u.block.pix[4 * i + 2]? = some ((b1 &&& 0x0F#8) <<< 4) ∧
      u.block.pix[4 * i + 3]? = some 255#8)

/-! ## Sequencer -/

/-- START (44_sequencer.md R192; the spec's decisions D18 and D21): in IDLE `START_ERR` takes the missing capabilities, with all
four `CAP` and `PHASE` are written, `StartStatus` tells which; in every other phase nothing changes. -/
def Obligations.StartIsAcceptedInIdleOnly : Prop :=
  ∀ (cap : BitVec 4) (s : State),
    (s.block.phase = 0#4 → cap = 0b1111#4 → exec (.start cap) s = .next { s with
      block := { s.block with startErr := 0#4, cap := 0b1111#4, phase := 9#4 }
      trace := s.trace ++ [.startStatus true] }) ∧
    (s.block.phase = 0#4 → cap ≠ 0b1111#4 → exec (.start cap) s = .next { s with
      block := { s.block with startErr := ~~~cap }
      trace := s.trace ++ [.startStatus false] }) ∧
    (s.block.phase ≠ 0#4 → exec (.start cap) s = .next s)

/-- TICK (44_sequencer.md R194; the spec's decision D8): from WAIT to SAMPLE; in every other phase nothing changes. -/
def Obligations.TickIsAcceptedInWaitOnly : Prop :=
  ∀ s : State,
    (s.block.phase = 9#4 → exec .tick s = .next { s with block := { s.block with phase := 1#4 } }) ∧
    (s.block.phase ≠ 9#4 → exec .tick s = .next s)

/-- IDLE, WAIT and HALT hold (44_sequencer.md R193, R195, R199; log 17): the sequencer's turn changes nothing there. -/
def Obligations.HeldPhasesChangeNothing : Prop :=
  ∀ s : State, exec .idle s = .next s ∧ exec .wait s = .next s ∧ exec .halt s = .next s

/-- STEP when the module's return is there (44_sequencer.md R196, 30_encoding.md R91; the spec's decision D9): `StepReq` with the
two masks as numbers below 64, player 1 first; the module is as the environment says its step left it (20_memory.md R77),
of at most `2^PTR_WIDTH` bytes (log 27); `PHASE <- ACQUIRE`; nothing else changes. -/
def Obligations.StepHandsBothMasksToTheModule : Prop :=
  ∀ (s : State) (m : ComputeModule) (rest : List ComputeModule),
    s.block.cap.getLsbD 0 = true → s.stepReturns = m :: rest →
    (∃ t, exec .step s = .next t ∧
      t = { s with
        block := { s.block with phase := 3#4 }
        moduleNow := { m with mem := t.moduleNow.mem, size := min m.size (2 ^ s.config.ptrWidth) }
        stepReturns := rest
        trace := s.trace ++ [.stepReq s.block.p1Mask.toNat s.block.p2Mask.toNat] } ∧
      ∀ a, Memory.read t.moduleNow.mem a = Memory.read m.mem a) ∧
    s.block.p1Mask.toNat < 64 ∧ s.block.p2Mask.toNat < 64

/-- A module step that never returns (44_sequencer.md R197): the sequencer stays in STEP for ever, with no output and no fault,
whatever host and key events arrive, until a RESET. That a hanging STEP has not emitted its own `StepReq` either is the model's
reading of R196 and R197 (DEDUCED, log 12): the transition that emits it is enabled only when the return is there. -/
def Obligations.StepThatNeverReturnsHangs : Prop :=
  ∀ (k : Nat) (s : State), s.block.phase = 2#4 → s.block.cap.getLsbD 0 = true → s.stepReturns = [] →
    (∀ turn ∈ s.turns, turn.isReset = false) →
    ∃ t, Host.Core.run Sys2Proof.core k s = .next t ∧ t.block.phase = 2#4 ∧ t.trace = s.trace ∧
      t.block.faultCause = s.block.faultCause

/-- PRESENT (44_sequencer.md R198; the spec's decision D20): a copy of all of `PIX` is emitted, `PHASE <- WAIT`, nothing else
changes. -/
def Obligations.PresentEmitsACopyOfThePixels : Prop :=
  ∀ s : State, exec .present s = .next { s with
    block := { s.block with phase := 9#4 }
    trace := s.trace ++ [.present s.block.pix] }

/-! ## Reset -/

/-- RESET, in any phase (70_reset_and_hazards.md R250, 10_state.md R50; the spec's decision D19): what the spec gives a value has
it, the environment, the trace and the configuration are untouched. Nothing is said of the elements the spec leaves
unspecified but their widths (10_state.md R23, R24). -/
def Obligations.ResetGivesTheSpecifiedValues : Prop :=
  ∀ s : State, ∃ t, exec .reset s = .next t ∧
    t = { s with block := t.block, draws := t.draws } ∧
    t.block.keys = List.replicate s.config.nKeys false ∧
    t.block.cap = 0#4 ∧ t.block.startErr = 0#4 ∧
    t.block.faultCause = 0#3 ∧ t.block.faultInfo0 = 0 ∧ t.block.faultInfo1 = 0 ∧
    t.block.phase = 0b1110#4 ∧
    t.block.screenPtr < 2 ^ s.config.ptrWidth ∧ t.block.palettePtr < 2 ^ s.config.ptrWidth ∧
    t.block.memSz ≤ 2 ^ s.config.ptrWidth

/-- The machine's reset state has the values the spec gives (10_state.md R50; the spec's decision D19), the default configuration
(00_scope.md R8; PRESUMED in logs 7 and 8, DESIGN CHOICE in log 9), and nothing in its environment: no turn and no return to
come, no module, no output so far (DESIGN CHOICE, log 6). -/
def Obligations.ResetStateHasTheSpecifiedValues : Prop :=
  State.reset.block.keys = List.replicate 15 false ∧
  State.reset.block.cap = 0#4 ∧ State.reset.block.startErr = 0#4 ∧ State.reset.block.faultCause = 0#3 ∧
  State.reset.block.faultInfo0 = 0 ∧ State.reset.block.faultInfo1 = 0 ∧ State.reset.block.phase = 14#4 ∧
  State.reset.config = defaultConfig ∧
  State.reset.turns = [] ∧ State.reset.stepReturns = [] ∧ State.reset.queryReturns = [] ∧
  State.reset.moduleNow = noModule ∧ State.reset.trace = []

/-- RESET and the INIT that follows it by itself (70_reset_and_hazards.md R251, derived; 44_sequencer.md R191, the spec's decision
D26): IDLE, no key held, every alpha byte 255, no fault recorded, no module attached, nothing emitted. -/
def Obligations.ResetThenInitIsTheEntryState : Prop :=
  ∀ s cap rest, s.turns = .host 3#2 cap :: .seq :: rest →
    ∃ t, Host.Core.run Sys2Proof.core 2 s = .next t ∧
      seqStateOf t.block.phase = some .idle ∧ t.block.phase = 0#4 ∧
      t.block.keys = List.replicate s.config.nKeys false ∧ AlphaFull t.block.pix ∧
      t.block.faultCause = 0#3 ∧ t.block.cap = 0#4 ∧ t.block.startErr = 0#4 ∧
      t.trace = s.trace ∧ t.turns = rest

/-! ## The machine as a whole -/

/-- Whatever a step does, `PHASE` moves along an edge of the phase graph (44_sequencer.md R190; the spec's decision D6) or stays
where the event is ignored or the phase holds. -/
def Obligations.PhaseMovesAlongTheGraphOnly : Prop :=
  ∀ s t : State, step s = .next t → PhaseEdge (nextInstr s) s.block.phase t.block.phase

/-- Within a session (44_sequencer.md R201, derived): once a module is started no run without RESET comes back to IDLE or INIT. -/
def Obligations.StartedSessionNeverReturnsToIdle : Prop :=
  ∀ (k : Nat) (s t : State), (∀ turn ∈ s.turns, turn.isReset = false) → ¬ NotStarted s.block.phase →
    Host.Core.run Sys2Proof.core k s = .next t → ¬ NotStarted t.block.phase

/-- No return from a fault and no nesting (60_exceptions.md R227): from HALT no run without RESET leaves HALT, changes a fault
register or emits anything, so a recorded cause stays the first and only one; and after a RESET, which clears it, the host may
START again. -/
def Obligations.HaltAndItsCauseLastUntilReset : Prop :=
  (∀ (k : Nat) (s : State), (∀ turn ∈ s.turns, turn.isReset = false) → s.block.phase = 15#4 →
    ∃ t, Host.Core.run Sys2Proof.core k s = .next t ∧ t.block.phase = 15#4 ∧
      t.block.faultCause = s.block.faultCause ∧ t.block.faultInfo0 = s.block.faultInfo0 ∧
      t.block.faultInfo1 = s.block.faultInfo1 ∧ t.trace = s.trace) ∧
  (∀ (s : State) (p : BitVec 4) (later : List Turn), s.block.phase = 15#4 →
    s.turns = .host 3#2 p :: .seq :: .host 2#2 0b1111#4 :: later →
    ∃ t, Host.Core.run Sys2Proof.core 3 s = .next t ∧ t.block.phase = 9#4 ∧ t.block.faultCause = 0#3 ∧
      t.trace = s.trace ++ [.startStatus true] ∧ t.turns = later)

/-- Every step keeps the invariant `Inv` (Safety.lean, each field with its rule): legal phases, canonical module memory, the widths
and the number that `PTR_WIDTH` and `NKEYS` give the elements, the bound of `MEMSZ`, alpha 255 after INIT, a fault recorded
exactly in HALT and never ACCESSOR_MISSING, the capabilities and `START_ERR` of a started session, and the latched size current
while the copies are made. -/
def Obligations.EveryStepKeepsTheInvariant : Prop :=
  ∀ s t : State, Inv s → step s = .next t → Inv t

/-- The invariant holds at reset, and after a RESET from any state whose module has a canonical memory of at most `2^PTR_WIDTH`
bytes; the order of outputs holds at reset too. -/
def Obligations.ResetMeetsTheInvariant : Prop :=
  Inv State.reset ∧ TraceInv State.reset ∧
  ∀ s t : State, Memory.wf s.moduleNow.mem → s.moduleNow.size ≤ 2 ^ s.config.ptrWidth → exec .reset s = .next t → Inv t

/-- From a state that meets the invariant no run ever stops: neither the fault `memReadUndefined` nor the refusal
`reservedPhase` is reached (20_memory.md R78, 30_encoding.md R108). -/
def Obligations.NoRunFromTheInvariantStops : Prop :=
  ∀ (k : Nat) (s : State), Inv s → ∃ t, Host.Core.run Sys2Proof.core k s = .next t

/-- Alpha (43_compositor.md R183, derived): in every run that begins with INIT, whatever its environment, once `PHASE` is not INIT
every alpha byte of `PIX` is 255, and so is every alpha byte of every frame presented. -/
def Obligations.EveryPresentedFrameIsOpaque : Prop :=
  ∀ (k : Nat) (s t : State), s.block.phase = Phase.init → Host.Core.run Sys2Proof.core k s = .next t →
    (t.block.phase ≠ Phase.init → AlphaFull t.block.pix) ∧
    ∃ out, t.trace = s.trace ++ out ∧ ∀ frame, Output.present frame ∈ out → AlphaFull frame

/-- Which operations can fault (60_exceptions.md R217, derived): every operation but STEP, ACQUIRE, XSCREEN, XPAL and COMPOSITE
completes in every state, and records and emits no fault. -/
def Obligations.OtherOperationsNeverFault : Prop :=
  ∀ (i : Instr) (s : State), i ≠ .step → i ≠ .acquire → i ≠ .xscreen → i ≠ .xpal → i ≠ .composite →
    ∃ t, exec i s = .next t ∧
      (i ≠ .reset → t.block.faultCause = s.block.faultCause ∧ t.block.faultInfo0 = s.block.faultInfo0 ∧
        t.block.faultInfo1 = s.block.faultInfo1) ∧
      ∃ out, t.trace = s.trace ++ out ∧ ∀ c i0 i1, Output.fault c i0 i1 ∉ out

/-- The access matrix (10_state.md R48, derived): which operations may write each element. -/
def Obligations.OnlyTheMarkedOperationsWriteAnElement : Prop :=
  ∀ (i : Instr) (s t : State), exec i s = .next t → i ≠ .reset →
    ((∀ key, i ≠ .keydown key ∧ i ≠ .keyup key) → t.block.keys = s.block.keys) ∧
    (i ≠ .sample → t.block.p1Mask = s.block.p1Mask ∧ t.block.p2Mask = s.block.p2Mask) ∧
    (i ≠ .acquire → t.block.screenPtr = s.block.screenPtr ∧ t.block.palettePtr = s.block.palettePtr ∧
      t.block.memSz = s.block.memSz) ∧
    (i ≠ .xscreen → t.block.scr = s.block.scr) ∧
    (i ≠ .xpal → t.block.pal = s.block.pal) ∧
    (i ≠ .decode → t.block.ct = s.block.ct) ∧
    (i ≠ .composite → ∀ j, j % 4 ≠ 3 → t.block.pix[j]? = s.block.pix[j]?) ∧
    (i ≠ .init → ∀ j, j % 4 = 3 → t.block.pix[j]? = s.block.pix[j]?) ∧
    (∀ key, i = .keydown key ∨ i = .keyup key → t.block.phase = s.block.phase) ∧
    ((∀ cap, i ≠ .start cap) → t.block.cap = s.block.cap ∧ t.block.startErr = s.block.startErr) ∧
    (i ≠ .step → i ≠ .acquire → i ≠ .xscreen → i ≠ .xpal → i ≠ .composite →
      t.block.faultCause = s.block.faultCause ∧ t.block.faultInfo0 = s.block.faultInfo0 ∧
      t.block.faultInfo1 = s.block.faultInfo1) ∧
    t.config = s.config

/-- The observable trace (00_scope.md R16, derived): an operation appends at most one output, each kind only from its own
operation, and nothing ever takes an output back. -/
def Obligations.OutputsComeFromTheirOperationsOnly : Prop :=
  ∀ (i : Instr) (s t : State), exec i s = .next t →
    t.trace = s.trace ∨ ∃ o, t.trace = s.trace ++ [o] ∧
      match o with
      | .startStatus ok => ∃ cap, i = .start cap ∧ ok = (cap == 0b1111#4)
      | .stepReq p1 p2 => i = .step ∧ p1 = s.block.p1Mask.toNat ∧ p2 = s.block.p2Mask.toNat
      | .present frame => i = .present ∧ frame = s.block.pix
      | .fault cause i0 i1 => (i = .step ∨ i = .acquire ∨ i = .xscreen ∨ i = .xpal ∨ i = .composite) ∧
          t.block.phase = Phase.halt ∧ t.block.faultCause = cause ∧
          t.block.faultInfo0 = trunc (s.config.ptrWidth + 1) i0 ∧ t.block.faultInfo1 = trunc (s.config.ptrWidth + 1) i1

/-- The order of the outputs in every run that begins with RESET done and INIT to come (44_sequencer.md R198, R200,
60_exceptions.md R226, R227): each `Present` comes directly after the `StepReq` of its frame, each `StepReq` directly after a
successful start or the `Present` before it, a `Fault` directly after the `StepReq` of its frame, and after a `Fault` only a
new start. -/
def Obligations.TraceIsASequenceOfFrames : Prop :=
  ∀ (k : Nat) (s t : State), s.block.phase = Phase.init → Inv s → s.trace = [] →
    Host.Core.run Sys2Proof.core k s = .next t → TraceOrdered none t.trace

/-- States that agree on what is live at their phase stay so (10_state.md R48 and 70_reset_and_hazards.md R252, derived;
20_memory.md R85): a step reads nothing but what an earlier operation of the same frame wrote. -/
def Obligations.OnlyLiveElementsDetermineTheNextStep : Prop :=
  ∀ s₁ s₂ t₁ : State, SameLive s₁ s₂ → step s₁ = .next t₁ → ∃ t₂, step s₂ = .next t₂ ∧ SameLive t₁ t₂

/-- Unspecified reset content can never influence an output (70_reset_and_hazards.md R252, derived): two states right after RESET
that differ only in elements whose reset content is unspecified have, in every run, the same trace. -/
def Obligations.ResetContentNeverReachesAnOutput : Prop :=
  ∀ (k : Nat) (s₁ s₂ t₁ : State), s₁.block.phase = Phase.init → SameButUnspecified s₁ s₂ →
    Host.Core.run Sys2Proof.core k s₁ = .next t₁ →
    ∃ t₂, Host.Core.run Sys2Proof.core k s₂ = .next t₂ ∧ t₂.trace = t₁.trace ∧ SameLive t₁ t₂

/-- One whole frame (44_sequencer.md R200, with R194 to R198): from WAIT a TICK and eight turns of the sequencer sample the keys, step
the module with the two masks, read its buffers where it then reports them, decode, composite and present exactly the module's
picture in its palette, and come back to WAIT; the outputs are one `StepReq` and one `Present`. The picture is that of the
module as the queries of ACQUIRE leave it (20_memory.md R78): `q`, the next entry of that script, or the module `m` that its
step left where there is none (log 13). The order of the turns is fixed (log 1): no event stands between them; that key events
would change nothing but the key lines is `KeyEventsCommuteWithTheFrame`. -/
def Obligations.AFrameRunsFromTickToPresent : Prop :=
  ∀ (s : State) (m q : ComputeModule) (more qs : List ComputeModule) (cap : BitVec 4) (later : List Turn),
    s.block.phase = Phase.wait → s.block.cap = 0b1111#4 → AlphaFull s.block.pix →
    s.turns = .host 1#2 cap :: (List.replicate 8 .seq ++ later) →
    s.stepReturns = m :: more → ((s.queryReturns = [] ∧ qs = [] ∧ q = m) ∨ s.queryReturns = q :: qs) →
    q.size ≤ 2 ^ s.config.ptrWidth → q.screenPtr + 76800 ≤ q.size → q.palettePtr + 64 ≤ q.size →
    (∀ j, j < 76800 → (Memory.read q.mem (q.screenPtr + j)).toNat ≤ 31) →
    ∃ t, Host.Core.run Sys2Proof.core 9 s = .next t ∧
      t.block.phase = Phase.wait ∧ t.turns = later ∧ t.stepReturns = more ∧ t.queryReturns = qs ∧
      t.trace = s.trace ++ [
        .stepReq (maskOf s.config.binding.p1 s.block.keys).toNat (maskOf s.config.binding.p2 s.block.keys).toNat,
        .present t.block.pix] ∧
      t.block.keys = s.block.keys ∧ t.block.cap = s.block.cap ∧
      t.block.faultCause = s.block.faultCause ∧ t.config = s.config ∧
      ∀ i, i < 76800 →
        let n := (Memory.read q.mem (q.screenPtr + i)).toNat
        let b0 := Memory.read q.mem (q.palettePtr + 2 * n)
        let b1 := Memory.read q.mem (q.palettePtr + (2 * n + 1))
        t.block.pix[4 * i]? = some ((b0 &&& 0x0F#8) <<< 4) ∧
        t.block.pix[4 * i + 1]? = s.config.green[b1.toNat]? ∧
        t.block.pix[4 * i + 2]? = some ((b1 &&& 0x0F#8) <<< 4) ∧
        t.block.pix[4 * i + 3]? = some 255#8

/-- Key events never disturb a frame (60_exceptions.md R221, derived): a key event and any operation that is neither SAMPLE nor
RESET nor a key event give the same state in either order. -/
def Obligations.KeyEventsCommuteWithTheFrame : Prop :=
  ∀ (word : BitVec 5) (i : Instr) (s t u : State), i ≠ .sample → i ≠ .reset →
    (∀ key, i ≠ .keydown key ∧ i ≠ .keyup key) →
    exec (decodeKeyEvent word) s = .next t → exec i s = .next u →
    ∃ v, exec i t = .next v ∧ exec (decodeKeyEvent word) u = .next v

/-- The order of detection (60_exceptions.md R223; the spec's decisions D12 and D16): when both regions are out of bounds only
OOB_SCREEN is reported; when the screen region fits and the palette region does not, OOB_PALETTE is reported whatever the screen
bytes, with `SCR` refilled. -/
def Obligations.FirstFaultInPhaseOrderIsReported : Prop :=
  ∀ s : State, s.block.phase = Phase.xscreen → s.turns = [] → s.block.memSz = s.moduleNow.size →
    s.block.memSz < s.block.palettePtr + 64 →
    ∃ t, Host.Core.run Sys2Proof.core 2 s = .next t ∧ t.block.phase = Phase.halt ∧
      (s.block.memSz < s.block.screenPtr + 76800 →
        t.block.faultCause = Cause.oobScreen ∧ t.block.scr = s.block.scr ∧ t.block.pal = s.block.pal ∧
        t.trace = s.trace ++ [.fault 2#3 s.block.screenPtr s.block.memSz]) ∧
      (s.block.screenPtr + 76800 ≤ s.block.memSz →
        t.block.faultCause = Cause.oobPalette ∧ t.block.pal = s.block.pal ∧
        (∀ j, j < 76800 → t.block.scr[j]? = some (Memory.read s.moduleNow.mem (s.block.screenPtr + j))) ∧
        t.trace = s.trace ++ [.fault 3#3 s.block.palettePtr s.block.memSz])

/-- `STATE` is a function of `PHASE`, and the `STATUS` port shows it with the fault and start registers (10_state.md R31, R45; the
spec's decisions D2 and D6). -/
def Obligations.StatusPortShowsStateAndRegisters : Prop :=
  (∀ b : Block, statusPort b = ⟨b.faultCause, b.faultInfo0, b.faultInfo1, b.startErr, seqStateOf b.phase⟩) ∧
  (∀ p : BitVec 4, seqStateOf p =
    if p.toNat = 0 ∨ p.toNat = 14 then some .idle
    else if p.toNat ≤ 9 then some .running
    else if p.toNat = 15 then some .halted else none)

/-- Every step keeps the order of the outputs (44_sequencer.md R198, R200, 60_exceptions.md R226, R227), under the invariant: each
output may follow the one before it, and the phase says which output was the last (`TraceInv` in Safety.lean). -/
def Obligations.EveryStepKeepsTheTraceInOrder : Prop :=
  ∀ s t : State, Inv s → TraceInv s → step s = .next t → TraceInv t
end

