-- ==== Sys2Proof/Laws/Buffers.lean ====
section
/-! SUPPORT. Reading a buffer built from a function or from a list. -/

namespace Sys2Proof.Machine

theorem tabulateFrom_getElem? {α : Type} (f : Nat → α) (n i j : Nat) :
    (tabulateFrom f i n)[j]? = if j < n then some (f (i + j)) else none := by
  induction n generalizing i j with
  | zero => simp [tabulateFrom]
  | succ n ih =>
    cases j with
    | zero => simp [tabulateFrom]
    | succ j => simp [tabulateFrom, ih, Nat.add_assoc, Nat.add_comm 1 j]

@[simp] theorem bufferOf_toList {α : Type} {n : Nat} (l : List α) (h : l.length = n) :
    (bufferOf l h).toList = l := rfl

@[simp] theorem bufferOf_getElem? {α : Type} {n : Nat} (l : List α) (h : l.length = n) (j : Nat) :
    (bufferOf l h)[j]? = l[j]? := by
  rw [← Vector.getElem?_toList]; rfl

/-- Element `j` of a tabulated buffer. -/
@[simp] theorem tabulate_getElem? {α : Type} (n : Nat) (f : Nat → α) (j : Nat) :
    (tabulate n f)[j]? = if j < n then some (f j) else none := by
  simp [tabulate, tabulateFrom_getElem?]

@[simp] theorem tabulate_getElem {α : Type} (n : Nat) (f : Nat → α) (j : Nat) (h : j < n) :
    (tabulate n f)[j] = f j := by
  have := tabulate_getElem? n f j
  rw [Vector.getElem?_eq_getElem h, if_pos h] at this
  exact Option.some.inj this

/-- Two buffers with the same elements are the same. -/
theorem buffer_ext {α : Type} {n : Nat} {v w : Vector α n} (h : ∀ j, j < n → v[j]? = w[j]?) : v = w := by
  apply Vector.ext
  intro j hj
  have := h j hj
  rw [Vector.getElem?_eq_getElem hj, Vector.getElem?_eq_getElem hj] at this
  exact Option.some.inj this

theorem buffer_getElem?_isSome {α : Type} {n : Nat} (v : Vector α n) {j : Nat} (h : j < n) :
    ∃ x, v[j]? = some x := ⟨v[j], Vector.getElem?_eq_getElem h⟩

theorem buffer_getElem?_lt {α : Type} {n : Nat} {v : Vector α n} {j : Nat} {x : α} (h : v[j]? = some x) : j < n := by
  by_contra hn
  rw [Vector.getElem?_eq_none (by omega)] at h
  cases h

end Sys2Proof.Machine
end

