-- ==== Sys2Proof/Laws/Memory.lean ====
section
/-! SUPPORT. The laws of the module's memory: read after write, the canonical form kept by every operation, and what
`MemRead` answers (20_memory.md R62). -/

namespace Sys2Proof.Machine

/-- An offset below every listed one is not listed. -/
theorem Memory.read_of_lt (m : List Host.Cell) (a : Nat) (h : ∀ c ∈ m, a < c.1) :
    Memory.read m a = Memory.unlisted := by
  induction m with
  | nil => rfl
  | cons c rest ih =>
    have hc : c.1 ≠ a := by have := h c (by simp); omega
    simp only [Memory.read, if_neg hc]
    exact ih fun d hd => h d (by simp [hd])

/-- Read after write, on a canonical memory: the byte written there, every other byte as before. -/
theorem Memory.read_write (m : List Host.Cell) (a b : Nat) (v : Byte) (h : Memory.wf m) :
    Memory.read (Memory.write m a v) b = if b = a then v else Memory.read m b := by
  induction m with
  | nil =>
    by_cases hv : v = Memory.unlisted <;> by_cases hb : b = a <;>
      simp_all [Memory.write, Memory.read, eq_comm]
  | cons c rest ih =>
    obtain ⟨hs, hne⟩ := h
    have hs' := List.pairwise_cons.mp hs
    have ihr := ih ⟨hs'.2, fun d hd => hne d (by simp [hd])⟩
    unfold Memory.write
    split
    · next hlt =>
      have hca : c.1 ≠ a := by omega
      have hra : Memory.read rest a = Memory.unlisted :=
        Memory.read_of_lt rest a fun d hd => Nat.lt_trans hlt (hs'.1 d hd)
      by_cases hv : v = Memory.unlisted
      · by_cases hb : b = a <;> simp [hv, hb, Memory.read, hca, hra]
      · by_cases hb : b = a
        · simp [hv, hb, Memory.read]
        · simp [hv, hb, Memory.read, Ne.symm hb]
    · split
      · next _ heq =>
        subst heq
        have hrc : Memory.read rest c.1 = Memory.unlisted := Memory.read_of_lt rest c.1 hs'.1
        by_cases hv : v = Memory.unlisted
        · by_cases hb : b = c.1
          · simp [hv, hb, hrc]
          · simp [hv, hb, Memory.read, Ne.symm hb]
        · by_cases hb : b = c.1
          · simp [hv, hb, Memory.read]
          · simp [hv, hb, Memory.read, Ne.symm hb]
      · next h1 h2 =>
        by_cases hb : b = c.1
        · have : b ≠ a := by omega
          simp [Memory.read, hb, Ne.symm h2]
        · simp [Memory.read, Ne.symm hb, ihr]

theorem Memory.write_mem (m : List Host.Cell) (a : Nat) (v : Byte) (c : Host.Cell)
    (h : c ∈ Memory.write m a v) : c = (a, v) ∧ v ≠ Memory.unlisted ∨ c ∈ m := by
  induction m with
  | nil =>
    unfold Memory.write at h
    split at h <;> simp_all
  | cons d rest ih =>
    unfold Memory.write at h
    split at h
    · split at h <;> simp_all
    · split at h
      · split at h <;> simp_all
        tauto
      · simp only [List.mem_cons] at h ⊢
        rcases h with h | h
        · simp [h]
        · rcases ih h with h | h
          · exact .inl h
          · exact .inr (.inr h)

/-- A write keeps the canonical form. -/
theorem Memory.write_wf (m : List Host.Cell) (a : Nat) (v : Byte) (h : Memory.wf m) :
    Memory.wf (Memory.write m a v) := by
  refine ⟨?_, ?_⟩
  · induction m with
    | nil => unfold Memory.write; split <;> simp
    | cons d rest ih =>
      obtain ⟨hs, hne⟩ := h
      have hs' := List.pairwise_cons.mp hs
      unfold Memory.write
      split
      · next hlt =>
        split
        · exact hs
        · refine List.pairwise_cons.mpr ⟨?_, hs⟩
          intro c hc
          rcases List.mem_cons.mp hc with rfl | hc
          · exact hlt
          · exact Nat.lt_trans hlt (hs'.1 c hc)
      · split
        · next heq =>
          split
          · exact hs'.2
          · exact List.pairwise_cons.mpr ⟨fun c hc => heq ▸ hs'.1 c hc, hs'.2⟩
        · next h1 h2 =>
          refine List.pairwise_cons.mpr ⟨?_, ih ⟨hs'.2, fun c hc => hne c (by simp [hc])⟩⟩
          intro c hc
          rcases Memory.write_mem rest a v c hc with ⟨rfl, -⟩ | hc
          · simp only; omega
          · exact hs'.1 c hc
  · intro c hc
    rcases Memory.write_mem m a v c hc with ⟨rfl, hv⟩ | hc
    · exact hv
    · exact h.2 c hc

/-- A memory built from a list of bytes is canonical. -/
theorem Memory.ofCells_wf (cells : List Host.Cell) : Memory.wf (Memory.ofCells cells) := by
  induction cells with
  | nil => exact ⟨List.Pairwise.nil, by simp [Memory.ofCells]⟩
  | cons c rest ih => exact Memory.write_wf _ _ _ ih

/-- A memory built from a list of bytes reads as the list does. -/
@[simp] theorem Memory.read_ofCells (cells : List Host.Cell) (a : Nat) :
    Memory.read (Memory.ofCells cells) a = Memory.read cells a := by
  induction cells with
  | nil => rfl
  | cons c rest ih =>
    change Memory.read (Memory.write (Memory.ofCells rest) c.1 c.2) a = _
    rw [Memory.read_write _ _ _ _ (Memory.ofCells_wf rest), ih]
    by_cases h : a = c.1
    · simp [Memory.read, h]
    · simp [Memory.read, h, Ne.symm h]

/-- Inside the module's memory `MemRead` answers its bytes in ascending order (R62). -/
theorem memRead_inside (m : ComputeModule) (addr n : Nat) (h : addr + n ≤ m.size) :
    memRead m addr n = some (tabulate n fun j => Memory.read m.mem (addr + j)) := if_pos h

/-- Outside it `MemRead` is not defined (R62). -/
theorem memRead_outside (m : ComputeModule) (addr n : Nat) (h : m.size < addr + n) :
    memRead m addr n = none := if_neg (by omega)

/-- What `MemRead` answers, where it answers. -/
theorem memRead_some {m : ComputeModule} {addr n : Nat} {v : Vector Byte n} (h : memRead m addr n = some v) :
    addr + n ≤ m.size ∧ ∀ j, j < n → v[j]? = some (Memory.read m.mem (addr + j)) := by
  unfold memRead at h
  split at h
  · next hle =>
    cases h
    exact ⟨hle, fun j hj => by simp [hj]⟩
  · cases h

end Sys2Proof.Machine
end

