-- ==== Sys2Proof/Laws/State.lean ====
section
/-! SUPPORT. One lemma per element per update, so that no proof unfolds a record update. -/

namespace Sys2Proof.Machine

/-! ### Block.setPhase -/
@[simp] theorem Block.setPhase_keys (b : Block) (p : BitVec 4) : (b.setPhase p).keys = b.keys := rfl
@[simp] theorem Block.setPhase_p1Mask (b : Block) (p : BitVec 4) : (b.setPhase p).p1Mask = b.p1Mask := rfl
@[simp] theorem Block.setPhase_p2Mask (b : Block) (p : BitVec 4) : (b.setPhase p).p2Mask = b.p2Mask := rfl
@[simp] theorem Block.setPhase_screenPtr (b : Block) (p : BitVec 4) : (b.setPhase p).screenPtr = b.screenPtr := rfl
@[simp] theorem Block.setPhase_palettePtr (b : Block) (p : BitVec 4) : (b.setPhase p).palettePtr = b.palettePtr := rfl
@[simp] theorem Block.setPhase_memSz (b : Block) (p : BitVec 4) : (b.setPhase p).memSz = b.memSz := rfl
@[simp] theorem Block.setPhase_scr (b : Block) (p : BitVec 4) : (b.setPhase p).scr = b.scr := rfl
@[simp] theorem Block.setPhase_pal (b : Block) (p : BitVec 4) : (b.setPhase p).pal = b.pal := rfl
@[simp] theorem Block.setPhase_ct (b : Block) (p : BitVec 4) : (b.setPhase p).ct = b.ct := rfl
@[simp] theorem Block.setPhase_pix (b : Block) (p : BitVec 4) : (b.setPhase p).pix = b.pix := rfl
@[simp] theorem Block.setPhase_phase (b : Block) (p : BitVec 4) : (b.setPhase p).phase = p := rfl
@[simp] theorem Block.setPhase_cap (b : Block) (p : BitVec 4) : (b.setPhase p).cap = b.cap := rfl
@[simp] theorem Block.setPhase_faultCause (b : Block) (p : BitVec 4) : (b.setPhase p).faultCause = b.faultCause := rfl
@[simp] theorem Block.setPhase_faultInfo0 (b : Block) (p : BitVec 4) : (b.setPhase p).faultInfo0 = b.faultInfo0 := rfl
@[simp] theorem Block.setPhase_faultInfo1 (b : Block) (p : BitVec 4) : (b.setPhase p).faultInfo1 = b.faultInfo1 := rfl
@[simp] theorem Block.setPhase_startErr (b : Block) (p : BitVec 4) : (b.setPhase p).startErr = b.startErr := rfl

/-! ### Block.setKeys -/
@[simp] theorem Block.setKeys_keys (b : Block) (k : List Bool) : (b.setKeys k).keys = k := rfl
@[simp] theorem Block.setKeys_p1Mask (b : Block) (k : List Bool) : (b.setKeys k).p1Mask = b.p1Mask := rfl
@[simp] theorem Block.setKeys_p2Mask (b : Block) (k : List Bool) : (b.setKeys k).p2Mask = b.p2Mask := rfl
@[simp] theorem Block.setKeys_screenPtr (b : Block) (k : List Bool) : (b.setKeys k).screenPtr = b.screenPtr := rfl
@[simp] theorem Block.setKeys_palettePtr (b : Block) (k : List Bool) : (b.setKeys k).palettePtr = b.palettePtr := rfl
@[simp] theorem Block.setKeys_memSz (b : Block) (k : List Bool) : (b.setKeys k).memSz = b.memSz := rfl
@[simp] theorem Block.setKeys_scr (b : Block) (k : List Bool) : (b.setKeys k).scr = b.scr := rfl
@[simp] theorem Block.setKeys_pal (b : Block) (k : List Bool) : (b.setKeys k).pal = b.pal := rfl
@[simp] theorem Block.setKeys_ct (b : Block) (k : List Bool) : (b.setKeys k).ct = b.ct := rfl
@[simp] theorem Block.setKeys_pix (b : Block) (k : List Bool) : (b.setKeys k).pix = b.pix := rfl
@[simp] theorem Block.setKeys_phase (b : Block) (k : List Bool) : (b.setKeys k).phase = b.phase := rfl
@[simp] theorem Block.setKeys_cap (b : Block) (k : List Bool) : (b.setKeys k).cap = b.cap := rfl
@[simp] theorem Block.setKeys_faultCause (b : Block) (k : List Bool) : (b.setKeys k).faultCause = b.faultCause := rfl
@[simp] theorem Block.setKeys_faultInfo0 (b : Block) (k : List Bool) : (b.setKeys k).faultInfo0 = b.faultInfo0 := rfl
@[simp] theorem Block.setKeys_faultInfo1 (b : Block) (k : List Bool) : (b.setKeys k).faultInfo1 = b.faultInfo1 := rfl
@[simp] theorem Block.setKeys_startErr (b : Block) (k : List Bool) : (b.setKeys k).startErr = b.startErr := rfl

/-! ### Block.setMasks -/
@[simp] theorem Block.setMasks_keys (b : Block) (m n : InputMask) : (b.setMasks m n).keys = b.keys := rfl
@[simp] theorem Block.setMasks_p1Mask (b : Block) (m n : InputMask) : (b.setMasks m n).p1Mask = m := rfl
@[simp] theorem Block.setMasks_p2Mask (b : Block) (m n : InputMask) : (b.setMasks m n).p2Mask = n := rfl
@[simp] theorem Block.setMasks_screenPtr (b : Block) (m n : InputMask) : (b.setMasks m n).screenPtr = b.screenPtr := rfl
@[simp] theorem Block.setMasks_palettePtr (b : Block) (m n : InputMask) : (b.setMasks m n).palettePtr = b.palettePtr := rfl
@[simp] theorem Block.setMasks_memSz (b : Block) (m n : InputMask) : (b.setMasks m n).memSz = b.memSz := rfl
@[simp] theorem Block.setMasks_scr (b : Block) (m n : InputMask) : (b.setMasks m n).scr = b.scr := rfl
@[simp] theorem Block.setMasks_pal (b : Block) (m n : InputMask) : (b.setMasks m n).pal = b.pal := rfl
@[simp] theorem Block.setMasks_ct (b : Block) (m n : InputMask) : (b.setMasks m n).ct = b.ct := rfl
@[simp] theorem Block.setMasks_pix (b : Block) (m n : InputMask) : (b.setMasks m n).pix = b.pix := rfl
@[simp] theorem Block.setMasks_phase (b : Block) (m n : InputMask) : (b.setMasks m n).phase = b.phase := rfl
@[simp] theorem Block.setMasks_cap (b : Block) (m n : InputMask) : (b.setMasks m n).cap = b.cap := rfl
@[simp] theorem Block.setMasks_faultCause (b : Block) (m n : InputMask) : (b.setMasks m n).faultCause = b.faultCause := rfl
@[simp] theorem Block.setMasks_faultInfo0 (b : Block) (m n : InputMask) : (b.setMasks m n).faultInfo0 = b.faultInfo0 := rfl
@[simp] theorem Block.setMasks_faultInfo1 (b : Block) (m n : InputMask) : (b.setMasks m n).faultInfo1 = b.faultInfo1 := rfl
@[simp] theorem Block.setMasks_startErr (b : Block) (m n : InputMask) : (b.setMasks m n).startErr = b.startErr := rfl

/-! ### Block.setView -/
@[simp] theorem Block.setView_keys (b : Block) (x y z : Nat) : (b.setView x y z).keys = b.keys := rfl
@[simp] theorem Block.setView_p1Mask (b : Block) (x y z : Nat) : (b.setView x y z).p1Mask = b.p1Mask := rfl
@[simp] theorem Block.setView_p2Mask (b : Block) (x y z : Nat) : (b.setView x y z).p2Mask = b.p2Mask := rfl
@[simp] theorem Block.setView_screenPtr (b : Block) (x y z : Nat) : (b.setView x y z).screenPtr = x := rfl
@[simp] theorem Block.setView_palettePtr (b : Block) (x y z : Nat) : (b.setView x y z).palettePtr = y := rfl
@[simp] theorem Block.setView_memSz (b : Block) (x y z : Nat) : (b.setView x y z).memSz = z := rfl
@[simp] theorem Block.setView_scr (b : Block) (x y z : Nat) : (b.setView x y z).scr = b.scr := rfl
@[simp] theorem Block.setView_pal (b : Block) (x y z : Nat) : (b.setView x y z).pal = b.pal := rfl
@[simp] theorem Block.setView_ct (b : Block) (x y z : Nat) : (b.setView x y z).ct = b.ct := rfl
@[simp] theorem Block.setView_pix (b : Block) (x y z : Nat) : (b.setView x y z).pix = b.pix := rfl
@[simp] theorem Block.setView_phase (b : Block) (x y z : Nat) : (b.setView x y z).phase = b.phase := rfl
@[simp] theorem Block.setView_cap (b : Block) (x y z : Nat) : (b.setView x y z).cap = b.cap := rfl
@[simp] theorem Block.setView_faultCause (b : Block) (x y z : Nat) : (b.setView x y z).faultCause = b.faultCause := rfl
@[simp] theorem Block.setView_faultInfo0 (b : Block) (x y z : Nat) : (b.setView x y z).faultInfo0 = b.faultInfo0 := rfl
@[simp] theorem Block.setView_faultInfo1 (b : Block) (x y z : Nat) : (b.setView x y z).faultInfo1 = b.faultInfo1 := rfl
@[simp] theorem Block.setView_startErr (b : Block) (x y z : Nat) : (b.setView x y z).startErr = b.startErr := rfl

/-! ### Block.setScr -/
@[simp] theorem Block.setScr_keys (b : Block) (v : Vector Byte Config.nPix) : (b.setScr v).keys = b.keys := rfl
@[simp] theorem Block.setScr_p1Mask (b : Block) (v : Vector Byte Config.nPix) : (b.setScr v).p1Mask = b.p1Mask := rfl
@[simp] theorem Block.setScr_p2Mask (b : Block) (v : Vector Byte Config.nPix) : (b.setScr v).p2Mask = b.p2Mask := rfl
@[simp] theorem Block.setScr_screenPtr (b : Block) (v : Vector Byte Config.nPix) : (b.setScr v).screenPtr = b.screenPtr := rfl
@[simp] theorem Block.setScr_palettePtr (b : Block) (v : Vector Byte Config.nPix) : (b.setScr v).palettePtr = b.palettePtr := rfl
@[simp] theorem Block.setScr_memSz (b : Block) (v : Vector Byte Config.nPix) : (b.setScr v).memSz = b.memSz := rfl
@[simp] theorem Block.setScr_scr (b : Block) (v : Vector Byte Config.nPix) : (b.setScr v).scr = v := rfl
@[simp] theorem Block.setScr_pal (b : Block) (v : Vector Byte Config.nPix) : (b.setScr v).pal = b.pal := rfl
@[simp] theorem Block.setScr_ct (b : Block) (v : Vector Byte Config.nPix) : (b.setScr v).ct = b.ct := rfl
@[simp] theorem Block.setScr_pix (b : Block) (v : Vector Byte Config.nPix) : (b.setScr v).pix = b.pix := rfl
@[simp] theorem Block.setScr_phase (b : Block) (v : Vector Byte Config.nPix) : (b.setScr v).phase = b.phase := rfl
@[simp] theorem Block.setScr_cap (b : Block) (v : Vector Byte Config.nPix) : (b.setScr v).cap = b.cap := rfl
@[simp] theorem Block.setScr_faultCause (b : Block) (v : Vector Byte Config.nPix) : (b.setScr v).faultCause = b.faultCause := rfl
@[simp] theorem Block.setScr_faultInfo0 (b : Block) (v : Vector Byte Config.nPix) : (b.setScr v).faultInfo0 = b.faultInfo0 := rfl
@[simp] theorem Block.setScr_faultInfo1 (b : Block) (v : Vector Byte Config.nPix) : (b.setScr v).faultInfo1 = b.faultInfo1 := rfl
@[simp] theorem Block.setScr_startErr (b : Block) (v : Vector Byte Config.nPix) : (b.setScr v).startErr = b.startErr := rfl

/-! ### Block.setPal -/
@[simp] theorem Block.setPal_keys (b : Block) (v : Vector Byte Config.palBytes) : (b.setPal v).keys = b.keys := rfl
@[simp] theorem Block.setPal_p1Mask (b : Block) (v : Vector Byte Config.palBytes) : (b.setPal v).p1Mask = b.p1Mask := rfl
@[simp] theorem Block.setPal_p2Mask (b : Block) (v : Vector Byte Config.palBytes) : (b.setPal v).p2Mask = b.p2Mask := rfl
@[simp] theorem Block.setPal_screenPtr (b : Block) (v : Vector Byte Config.palBytes) : (b.setPal v).screenPtr = b.screenPtr := rfl
@[simp] theorem Block.setPal_palettePtr (b : Block) (v : Vector Byte Config.palBytes) : (b.setPal v).palettePtr = b.palettePtr := rfl
@[simp] theorem Block.setPal_memSz (b : Block) (v : Vector Byte Config.palBytes) : (b.setPal v).memSz = b.memSz := rfl
@[simp] theorem Block.setPal_scr (b : Block) (v : Vector Byte Config.palBytes) : (b.setPal v).scr = b.scr := rfl
@[simp] theorem Block.setPal_pal (b : Block) (v : Vector Byte Config.palBytes) : (b.setPal v).pal = v := rfl
@[simp] theorem Block.setPal_ct (b : Block) (v : Vector Byte Config.palBytes) : (b.setPal v).ct = b.ct := rfl
@[simp] theorem Block.setPal_pix (b : Block) (v : Vector Byte Config.palBytes) : (b.setPal v).pix = b.pix := rfl
@[simp] theorem Block.setPal_phase (b : Block) (v : Vector Byte Config.palBytes) : (b.setPal v).phase = b.phase := rfl
@[simp] theorem Block.setPal_cap (b : Block) (v : Vector Byte Config.palBytes) : (b.setPal v).cap = b.cap := rfl
@[simp] theorem Block.setPal_faultCause (b : Block) (v : Vector Byte Config.palBytes) : (b.setPal v).faultCause = b.faultCause := rfl
@[simp] theorem Block.setPal_faultInfo0 (b : Block) (v : Vector Byte Config.palBytes) : (b.setPal v).faultInfo0 = b.faultInfo0 := rfl
@[simp] theorem Block.setPal_faultInfo1 (b : Block) (v : Vector Byte Config.palBytes) : (b.setPal v).faultInfo1 = b.faultInfo1 := rfl
@[simp] theorem Block.setPal_startErr (b : Block) (v : Vector Byte Config.palBytes) : (b.setPal v).startErr = b.startErr := rfl

/-! ### Block.setCt -/
@[simp] theorem Block.setCt_keys (b : Block) (v : Vector Rgb Config.nPal) : (b.setCt v).keys = b.keys := rfl
@[simp] theorem Block.setCt_p1Mask (b : Block) (v : Vector Rgb Config.nPal) : (b.setCt v).p1Mask = b.p1Mask := rfl
@[simp] theorem Block.setCt_p2Mask (b : Block) (v : Vector Rgb Config.nPal) : (b.setCt v).p2Mask = b.p2Mask := rfl
@[simp] theorem Block.setCt_screenPtr (b : Block) (v : Vector Rgb Config.nPal) : (b.setCt v).screenPtr = b.screenPtr := rfl
@[simp] theorem Block.setCt_palettePtr (b : Block) (v : Vector Rgb Config.nPal) : (b.setCt v).palettePtr = b.palettePtr := rfl
@[simp] theorem Block.setCt_memSz (b : Block) (v : Vector Rgb Config.nPal) : (b.setCt v).memSz = b.memSz := rfl
@[simp] theorem Block.setCt_scr (b : Block) (v : Vector Rgb Config.nPal) : (b.setCt v).scr = b.scr := rfl
@[simp] theorem Block.setCt_pal (b : Block) (v : Vector Rgb Config.nPal) : (b.setCt v).pal = b.pal := rfl
@[simp] theorem Block.setCt_ct (b : Block) (v : Vector Rgb Config.nPal) : (b.setCt v).ct = v := rfl
@[simp] theorem Block.setCt_pix (b : Block) (v : Vector Rgb Config.nPal) : (b.setCt v).pix = b.pix := rfl
@[simp] theorem Block.setCt_phase (b : Block) (v : Vector Rgb Config.nPal) : (b.setCt v).phase = b.phase := rfl
@[simp] theorem Block.setCt_cap (b : Block) (v : Vector Rgb Config.nPal) : (b.setCt v).cap = b.cap := rfl
@[simp] theorem Block.setCt_faultCause (b : Block) (v : Vector Rgb Config.nPal) : (b.setCt v).faultCause = b.faultCause := rfl
@[simp] theorem Block.setCt_faultInfo0 (b : Block) (v : Vector Rgb Config.nPal) : (b.setCt v).faultInfo0 = b.faultInfo0 := rfl
@[simp] theorem Block.setCt_faultInfo1 (b : Block) (v : Vector Rgb Config.nPal) : (b.setCt v).faultInfo1 = b.faultInfo1 := rfl
@[simp] theorem Block.setCt_startErr (b : Block) (v : Vector Rgb Config.nPal) : (b.setCt v).startErr = b.startErr := rfl

/-! ### Block.setPix -/
@[simp] theorem Block.setPix_keys (b : Block) (v : Vector Byte Config.pixBytes) : (b.setPix v).keys = b.keys := rfl
@[simp] theorem Block.setPix_p1Mask (b : Block) (v : Vector Byte Config.pixBytes) : (b.setPix v).p1Mask = b.p1Mask := rfl
@[simp] theorem Block.setPix_p2Mask (b : Block) (v : Vector Byte Config.pixBytes) : (b.setPix v).p2Mask = b.p2Mask := rfl
@[simp] theorem Block.setPix_screenPtr (b : Block) (v : Vector Byte Config.pixBytes) : (b.setPix v).screenPtr = b.screenPtr := rfl
@[simp] theorem Block.setPix_palettePtr (b : Block) (v : Vector Byte Config.pixBytes) : (b.setPix v).palettePtr = b.palettePtr := rfl
@[simp] theorem Block.setPix_memSz (b : Block) (v : Vector Byte Config.pixBytes) : (b.setPix v).memSz = b.memSz := rfl
@[simp] theorem Block.setPix_scr (b : Block) (v : Vector Byte Config.pixBytes) : (b.setPix v).scr = b.scr := rfl
@[simp] theorem Block.setPix_pal (b : Block) (v : Vector Byte Config.pixBytes) : (b.setPix v).pal = b.pal := rfl
@[simp] theorem Block.setPix_ct (b : Block) (v : Vector Byte Config.pixBytes) : (b.setPix v).ct = b.ct := rfl
@[simp] theorem Block.setPix_pix (b : Block) (v : Vector Byte Config.pixBytes) : (b.setPix v).pix = v := rfl
@[simp] theorem Block.setPix_phase (b : Block) (v : Vector Byte Config.pixBytes) : (b.setPix v).phase = b.phase := rfl
@[simp] theorem Block.setPix_cap (b : Block) (v : Vector Byte Config.pixBytes) : (b.setPix v).cap = b.cap := rfl
@[simp] theorem Block.setPix_faultCause (b : Block) (v : Vector Byte Config.pixBytes) : (b.setPix v).faultCause = b.faultCause := rfl
@[simp] theorem Block.setPix_faultInfo0 (b : Block) (v : Vector Byte Config.pixBytes) : (b.setPix v).faultInfo0 = b.faultInfo0 := rfl
@[simp] theorem Block.setPix_faultInfo1 (b : Block) (v : Vector Byte Config.pixBytes) : (b.setPix v).faultInfo1 = b.faultInfo1 := rfl
@[simp] theorem Block.setPix_startErr (b : Block) (v : Vector Byte Config.pixBytes) : (b.setPix v).startErr = b.startErr := rfl

/-! ### Block.setCap -/
@[simp] theorem Block.setCap_keys (b : Block) (c : BitVec 4) : (b.setCap c).keys = b.keys := rfl
@[simp] theorem Block.setCap_p1Mask (b : Block) (c : BitVec 4) : (b.setCap c).p1Mask = b.p1Mask := rfl
@[simp] theorem Block.setCap_p2Mask (b : Block) (c : BitVec 4) : (b.setCap c).p2Mask = b.p2Mask := rfl
@[simp] theorem Block.setCap_screenPtr (b : Block) (c : BitVec 4) : (b.setCap c).screenPtr = b.screenPtr := rfl
@[simp] theorem Block.setCap_palettePtr (b : Block) (c : BitVec 4) : (b.setCap c).palettePtr = b.palettePtr := rfl
@[simp] theorem Block.setCap_memSz (b : Block) (c : BitVec 4) : (b.setCap c).memSz = b.memSz := rfl
@[simp] theorem Block.setCap_scr (b : Block) (c : BitVec 4) : (b.setCap c).scr = b.scr := rfl
@[simp] theorem Block.setCap_pal (b : Block) (c : BitVec 4) : (b.setCap c).pal = b.pal := rfl
@[simp] theorem Block.setCap_ct (b : Block) (c : BitVec 4) : (b.setCap c).ct = b.ct := rfl
@[simp] theorem Block.setCap_pix (b : Block) (c : BitVec 4) : (b.setCap c).pix = b.pix := rfl
@[simp] theorem Block.setCap_phase (b : Block) (c : BitVec 4) : (b.setCap c).phase = b.phase := rfl
@[simp] theorem Block.setCap_cap (b : Block) (c : BitVec 4) : (b.setCap c).cap = c := rfl
@[simp] theorem Block.setCap_faultCause (b : Block) (c : BitVec 4) : (b.setCap c).faultCause = b.faultCause := rfl
@[simp] theorem Block.setCap_faultInfo0 (b : Block) (c : BitVec 4) : (b.setCap c).faultInfo0 = b.faultInfo0 := rfl
@[simp] theorem Block.setCap_faultInfo1 (b : Block) (c : BitVec 4) : (b.setCap c).faultInfo1 = b.faultInfo1 := rfl
@[simp] theorem Block.setCap_startErr (b : Block) (c : BitVec 4) : (b.setCap c).startErr = b.startErr := rfl

/-! ### Block.setStartErr -/
@[simp] theorem Block.setStartErr_keys (b : Block) (e : BitVec 4) : (b.setStartErr e).keys = b.keys := rfl
@[simp] theorem Block.setStartErr_p1Mask (b : Block) (e : BitVec 4) : (b.setStartErr e).p1Mask = b.p1Mask := rfl
@[simp] theorem Block.setStartErr_p2Mask (b : Block) (e : BitVec 4) : (b.setStartErr e).p2Mask = b.p2Mask := rfl
@[simp] theorem Block.setStartErr_screenPtr (b : Block) (e : BitVec 4) : (b.setStartErr e).screenPtr = b.screenPtr := rfl
@[simp] theorem Block.setStartErr_palettePtr (b : Block) (e : BitVec 4) : (b.setStartErr e).palettePtr = b.palettePtr := rfl
@[simp] theorem Block.setStartErr_memSz (b : Block) (e : BitVec 4) : (b.setStartErr e).memSz = b.memSz := rfl
@[simp] theorem Block.setStartErr_scr (b : Block) (e : BitVec 4) : (b.setStartErr e).scr = b.scr := rfl
@[simp] theorem Block.setStartErr_pal (b : Block) (e : BitVec 4) : (b.setStartErr e).pal = b.pal := rfl
@[simp] theorem Block.setStartErr_ct (b : Block) (e : BitVec 4) : (b.setStartErr e).ct = b.ct := rfl
@[simp] theorem Block.setStartErr_pix (b : Block) (e : BitVec 4) : (b.setStartErr e).pix = b.pix := rfl
@[simp] theorem Block.setStartErr_phase (b : Block) (e : BitVec 4) : (b.setStartErr e).phase = b.phase := rfl
@[simp] theorem Block.setStartErr_cap (b : Block) (e : BitVec 4) : (b.setStartErr e).cap = b.cap := rfl
@[simp] theorem Block.setStartErr_faultCause (b : Block) (e : BitVec 4) : (b.setStartErr e).faultCause = b.faultCause := rfl
@[simp] theorem Block.setStartErr_faultInfo0 (b : Block) (e : BitVec 4) : (b.setStartErr e).faultInfo0 = b.faultInfo0 := rfl
@[simp] theorem Block.setStartErr_faultInfo1 (b : Block) (e : BitVec 4) : (b.setStartErr e).faultInfo1 = b.faultInfo1 := rfl
@[simp] theorem Block.setStartErr_startErr (b : Block) (e : BitVec 4) : (b.setStartErr e).startErr = e := rfl

/-! ### Block.setFault -/
@[simp] theorem Block.setFault_keys (b : Block) (c : BitVec 3) (x y : Nat) : (b.setFault c x y).keys = b.keys := rfl
@[simp] theorem Block.setFault_p1Mask (b : Block) (c : BitVec 3) (x y : Nat) : (b.setFault c x y).p1Mask = b.p1Mask := rfl
@[simp] theorem Block.setFault_p2Mask (b : Block) (c : BitVec 3) (x y : Nat) : (b.setFault c x y).p2Mask = b.p2Mask := rfl
@[simp] theorem Block.setFault_screenPtr (b : Block) (c : BitVec 3) (x y : Nat) : (b.setFault c x y).screenPtr = b.screenPtr := rfl
@[simp] theorem Block.setFault_palettePtr (b : Block) (c : BitVec 3) (x y : Nat) : (b.setFault c x y).palettePtr = b.palettePtr := rfl
@[simp] theorem Block.setFault_memSz (b : Block) (c : BitVec 3) (x y : Nat) : (b.setFault c x y).memSz = b.memSz := rfl
@[simp] theorem Block.setFault_scr (b : Block) (c : BitVec 3) (x y : Nat) : (b.setFault c x y).scr = b.scr := rfl
@[simp] theorem Block.setFault_pal (b : Block) (c : BitVec 3) (x y : Nat) : (b.setFault c x y).pal = b.pal := rfl
@[simp] theorem Block.setFault_ct (b : Block) (c : BitVec 3) (x y : Nat) : (b.setFault c x y).ct = b.ct := rfl
@[simp] theorem Block.setFault_pix (b : Block) (c : BitVec 3) (x y : Nat) : (b.setFault c x y).pix = b.pix := rfl
@[simp] theorem Block.setFault_phase (b : Block) (c : BitVec 3) (x y : Nat) : (b.setFault c x y).phase = b.phase := rfl
@[simp] theorem Block.setFault_cap (b : Block) (c : BitVec 3) (x y : Nat) : (b.setFault c x y).cap = b.cap := rfl
@[simp] theorem Block.setFault_faultCause (b : Block) (c : BitVec 3) (x y : Nat) : (b.setFault c x y).faultCause = c := rfl
@[simp] theorem Block.setFault_faultInfo0 (b : Block) (c : BitVec 3) (x y : Nat) : (b.setFault c x y).faultInfo0 = x := rfl
@[simp] theorem Block.setFault_faultInfo1 (b : Block) (c : BitVec 3) (x y : Nat) : (b.setFault c x y).faultInfo1 = y := rfl
@[simp] theorem Block.setFault_startErr (b : Block) (c : BitVec 3) (x y : Nat) : (b.setFault c x y).startErr = b.startErr := rfl

/-! ### State.setBlock -/
@[simp] theorem State.setBlock_block (s : State) (b : Block) : (s.setBlock b).block = b := rfl
@[simp] theorem State.setBlock_moduleNow (s : State) (b : Block) : (s.setBlock b).moduleNow = s.moduleNow := rfl
@[simp] theorem State.setBlock_stepReturns (s : State) (b : Block) : (s.setBlock b).stepReturns = s.stepReturns := rfl
@[simp] theorem State.setBlock_queryReturns (s : State) (b : Block) : (s.setBlock b).queryReturns = s.queryReturns := rfl
@[simp] theorem State.setBlock_turns (s : State) (b : Block) : (s.setBlock b).turns = s.turns := rfl
@[simp] theorem State.setBlock_trace (s : State) (b : Block) : (s.setBlock b).trace = s.trace := rfl
@[simp] theorem State.setBlock_config (s : State) (b : Block) : (s.setBlock b).config = s.config := rfl
@[simp] theorem State.setBlock_draws (s : State) (b : Block) : (s.setBlock b).draws = s.draws := rfl

/-! ### State.setTurns -/
@[simp] theorem State.setTurns_block (s : State) (t : List Turn) : (s.setTurns t).block = s.block := rfl
@[simp] theorem State.setTurns_moduleNow (s : State) (t : List Turn) : (s.setTurns t).moduleNow = s.moduleNow := rfl
@[simp] theorem State.setTurns_stepReturns (s : State) (t : List Turn) : (s.setTurns t).stepReturns = s.stepReturns := rfl
@[simp] theorem State.setTurns_queryReturns (s : State) (t : List Turn) : (s.setTurns t).queryReturns = s.queryReturns := rfl
@[simp] theorem State.setTurns_turns (s : State) (t : List Turn) : (s.setTurns t).turns = t := rfl
@[simp] theorem State.setTurns_trace (s : State) (t : List Turn) : (s.setTurns t).trace = s.trace := rfl
@[simp] theorem State.setTurns_config (s : State) (t : List Turn) : (s.setTurns t).config = s.config := rfl
@[simp] theorem State.setTurns_draws (s : State) (t : List Turn) : (s.setTurns t).draws = s.draws := rfl

/-! ### State.emit -/
@[simp] theorem State.emit_block (s : State) (o : Output) : (s.emit o).block = s.block := rfl
@[simp] theorem State.emit_moduleNow (s : State) (o : Output) : (s.emit o).moduleNow = s.moduleNow := rfl
@[simp] theorem State.emit_stepReturns (s : State) (o : Output) : (s.emit o).stepReturns = s.stepReturns := rfl
@[simp] theorem State.emit_queryReturns (s : State) (o : Output) : (s.emit o).queryReturns = s.queryReturns := rfl
@[simp] theorem State.emit_turns (s : State) (o : Output) : (s.emit o).turns = s.turns := rfl
@[simp] theorem State.emit_trace (s : State) (o : Output) : (s.emit o).trace = s.trace ++ [o] := rfl
@[simp] theorem State.emit_config (s : State) (o : Output) : (s.emit o).config = s.config := rfl
@[simp] theorem State.emit_draws (s : State) (o : Output) : (s.emit o).draws = s.draws := rfl

/-! ### State.countDraw -/
@[simp] theorem State.countDraw_block (s : State) : s.countDraw.block = s.block := rfl
@[simp] theorem State.countDraw_moduleNow (s : State) : s.countDraw.moduleNow = s.moduleNow := rfl
@[simp] theorem State.countDraw_stepReturns (s : State) : s.countDraw.stepReturns = s.stepReturns := rfl
@[simp] theorem State.countDraw_queryReturns (s : State) : s.countDraw.queryReturns = s.queryReturns := rfl
@[simp] theorem State.countDraw_turns (s : State) : s.countDraw.turns = s.turns := rfl
@[simp] theorem State.countDraw_trace (s : State) : s.countDraw.trace = s.trace := rfl
@[simp] theorem State.countDraw_config (s : State) : s.countDraw.config = s.config := rfl
@[simp] theorem State.countDraw_draws (s : State) : s.countDraw.draws = s.draws + 1 := rfl

/-! ### State.stepReturned -/
@[simp] theorem State.stepReturned_block (s : State) (m : ComputeModule) (rest : List ComputeModule) : (s.stepReturned m rest).block = s.block := rfl
@[simp] theorem State.stepReturned_moduleNow (s : State) (m : ComputeModule) (rest : List ComputeModule) : (s.stepReturned m rest).moduleNow = m.landed s.config.ptrWidth := rfl
@[simp] theorem State.stepReturned_stepReturns (s : State) (m : ComputeModule) (rest : List ComputeModule) : (s.stepReturned m rest).stepReturns = rest := rfl
@[simp] theorem State.stepReturned_queryReturns (s : State) (m : ComputeModule) (rest : List ComputeModule) : (s.stepReturned m rest).queryReturns = s.queryReturns := rfl
@[simp] theorem State.stepReturned_turns (s : State) (m : ComputeModule) (rest : List ComputeModule) : (s.stepReturned m rest).turns = s.turns := rfl
@[simp] theorem State.stepReturned_trace (s : State) (m : ComputeModule) (rest : List ComputeModule) : (s.stepReturned m rest).trace = s.trace := rfl
@[simp] theorem State.stepReturned_config (s : State) (m : ComputeModule) (rest : List ComputeModule) : (s.stepReturned m rest).config = s.config := rfl
@[simp] theorem State.stepReturned_draws (s : State) (m : ComputeModule) (rest : List ComputeModule) : (s.stepReturned m rest).draws = s.draws := rfl

/-! ### The module as a call's return leaves it -/
@[simp] theorem ComputeModule.landed_screenPtr (w : Nat) (m : ComputeModule) : (m.landed w).screenPtr = m.screenPtr := rfl
@[simp] theorem ComputeModule.landed_palettePtr (w : Nat) (m : ComputeModule) : (m.landed w).palettePtr = m.palettePtr := rfl
@[simp] theorem ComputeModule.landed_size (w : Nat) (m : ComputeModule) : (m.landed w).size = min m.size (2 ^ w) := rfl
@[simp] theorem ComputeModule.landed_mem (w : Nat) (m : ComputeModule) : (m.landed w).mem = Memory.ofCells m.mem := rfl

end Sys2Proof.Machine
end

