-- ==== Sys2Proof/Laws/Operands.lean ====
section
/-! SUPPORT. What the operand operations give: key lines, masks, capabilities, regions, codes. -/

namespace Sys2Proof.Machine

/-- A key event writes the line of its code and no other; code 15 writes none, and neither does a code whose line is not there
(R120, R121). -/
theorem writeKey_getElem? (keys : List Bool) (key : KeyCode) (v : Bool) (k : Nat) (hk : k < keys.length) :
    (writeKey keys key v)[k]? = if k = key.toNat ∧ key ≠ 15#4 then some v else keys[k]? := by
  have h15 : key.toNat ≤ 14 ↔ key ≠ 15#4 := by revert key; decide
  unfold writeKey
  by_cases h : key ≠ 15#4
  · rw [if_pos (h15.mpr h), List.getElem?_set]
    by_cases hkk : key.toNat = k
    · simp [hkk, hk, h]
    · simp [hkk, Ne.symm hkk]
  · rw [if_neg (fun hc => h (h15.mp hc)), if_neg (fun hc => h hc.2)]

/-- A key event keeps the number of lines. -/
@[simp] theorem writeKey_length (keys : List Bool) (key : KeyCode) (v : Bool) :
    (writeKey keys key v).length = keys.length := by
  unfold writeKey
  split <;> simp

/-- Key code 15 writes no line (R109). -/
@[simp] theorem writeKey_other (keys : List Bool) (v : Bool) : writeKey keys 15#4 v = keys := rfl

/-- A key line, as `K[key]`, a code without a line reading as not held. -/
theorem readKey_eq (keys : List Bool) (key : KeyCode) : readKey keys key = keys[key.toNat]?.getD false := rfl

theorem inputHeld_eq_any (keys : List Bool) (codes : List KeyCode) :
    inputHeld keys codes = codes.any fun k => readKey keys k := by
  have h : ∀ (l : List KeyCode) (b : Bool),
      l.foldl (fun held k => held || readKey keys k) b = (b || l.any fun k => readKey keys k) := by
    intro l
    induction l with
    | nil => simp
    | cons k rest ih => intro b; simp [List.foldl_cons, ih, Bool.or_assoc]
  simpa [inputHeld] using h codes false

theorem six_bits (a b c d e f : Bool) :
    let m : BitVec 6 := BitVec.ofBool f ++ BitVec.ofBool e ++ BitVec.ofBool d ++ BitVec.ofBool c ++ BitVec.ofBool b ++
      BitVec.ofBool a
    m.getLsbD 0 = a ∧ m.getLsbD 1 = b ∧ m.getLsbD 2 = c ∧ m.getLsbD 3 = d ∧ m.getLsbD 4 = e ∧ m.getLsbD 5 = f := by
  revert a b c d e f; decide

/-- The mask in closed form (R124): bit `n` is the OR of the lines bound to input `n`. -/
theorem maskOf_getLsbD (row : BindingRow) (keys : List Bool) (n : Nat) (codes : List KeyCode)
    (h : row[n]? = some codes) : (maskOf row keys).getLsbD n = inputHeld keys codes := by
  have hn : n < 6 := buffer_getElem?_lt h
  have he : row[n] = codes := by
    rw [Vector.getElem?_eq_getElem hn] at h; exact Option.some.inj h
  subst he
  have : n = 0 ∨ n = 1 ∨ n = 2 ∨ n = 3 ∨ n = 4 ∨ n = 5 := by omega
  have hb := six_bits (inputHeld keys row[0]) (inputHeld keys row[1]) (inputHeld keys row[2]) (inputHeld keys row[3])
    (inputHeld keys row[4]) (inputHeld keys row[5])
  rcases this with rfl | rfl | rfl | rfl | rfl | rfl
  · exact hb.1
  · exact hb.2.1
  · exact hb.2.2.1
  · exact hb.2.2.2.1
  · exact hb.2.2.2.2.1
  · exact hb.2.2.2.2.2

/-- The missing capabilities as a number. -/
theorem missingCaps_toNat (cap : BitVec 4) : (missingCaps cap).toNat = 15 - cap.toNat := by
  revert cap; decide

theorem missingCaps_eq_not (cap : BitVec 4) : missingCaps cap = ~~~cap := by
  revert cap; decide

@[simp] theorem missingCaps_all : missingCaps 0b1111#4 = 0#4 := by decide

/-- A value that has its width is not changed by truncation (R10). -/
theorem trunc_of_lt {n v : Nat} (h : v < 2 ^ n) : trunc n v = v := Nat.mod_eq_of_lt h

/-- Truncation gives a value of its width (R10). -/
theorem trunc_lt (n v : Nat) : trunc n v < 2 ^ n := Nat.mod_lt _ (Nat.two_pow_pos n)

/-- A value of `n` bits, and `2^n` too, has `n + 1` bits (R24). -/
theorem trunc_succ_of_le {n v : Nat} (h : v ≤ 2 ^ n) : trunc (n + 1) v = v :=
  trunc_of_lt (by have := Nat.two_pow_pos n; rw [Nat.pow_succ]; omega)

theorem regionFits_iff (ptr len memSz : Nat) : regionFits ptr len memSz = true ↔ ptr + len ≤ memSz := by
  simp [regionFits]

theorem regionFits_false_iff (ptr len memSz : Nat) : regionFits ptr len memSz = false ↔ memSz < ptr + len := by
  simp [regionFits]

theorem hasQueries_iff (cap : BitVec 4) : hasQueries cap = true ↔
    cap.getLsbD 1 = true ∧ cap.getLsbD 2 = true ∧ cap.getLsbD 3 = true := by
  simp [hasQueries, and_assoc]

/-- The key field of a key event word written from its parts (R102). -/
@[simp] theorem keyField_append (d : BitVec 1) (key : KeyCode) : keyField (d ++ key) = key := by
  revert d key; decide

@[simp] theorem decodeKeyEvent_down (key : KeyCode) : decodeKeyEvent (1#1 ++ key) = .keydown key := by
  revert key; decide

@[simp] theorem decodeKeyEvent_up (key : KeyCode) : decodeKeyEvent (0#1 ++ key) = .keyup key := by
  revert key; decide

end Sys2Proof.Machine
end

