-- ==== Sys2Proof/Laws/ColorDecoder.lean ====
section
/-! SUPPORT. The channel functions and the decoded table (42_color_decoder.md). -/

namespace Sys2Proof.Machine

/-- Red keeps the low nibble, moved up (R161). -/
theorem redOf_eq (b0 : Byte) : redOf b0 = (b0 &&& 0x0F#8) <<< 4 := by revert b0; decide

/-- Red is `b0 << 4` truncated to 8 bits (R161). -/
theorem redOf_toNat (b0 : Byte) : (redOf b0).toNat = (b0.toNat * 16) % 256 := by
  simp [redOf, BitVec.toNat_shiftLeft, Nat.shiftLeft_eq]

theorem redOf_low (b0 : Byte) : (redOf b0).toNat % 16 = 0 := by rw [redOf_toNat]; omega

theorem blueOf_low (b1 : Byte) : (blueOf b1).toNat % 16 = 0 := by revert b1; decide

/-- `GREEN` read from its table. -/
theorem greenOf_getElem? (green : GreenTable) (b1 : Byte) : green[b1.toNat]? = some (greenOf green b1) :=
  Vector.getElem?_eq_getElem b1.isLt

/-- The default `GREEN` (R162, D14). -/
theorem greenOf_default (b1 : Byte) : greenOf defaultGreen b1 = b1 &&& 0xF0#8 := by
  simp [greenOf, defaultGreen]

theorem and_high_low (b : Byte) : (b &&& 0xF0#8).toNat % 16 = 0 := by revert b; decide

/-- An entry's first byte, where it is read from (R64). -/
theorem palB0_eq (pal : Vector Byte Config.palBytes) (n : Nat) (b : Byte) (h : pal[2 * n]? = some b) :
    palB0 pal n = b := by simp [palB0, h]

/-- An entry's second byte, where it is read from (R64). -/
theorem palB1_eq (pal : Vector Byte Config.palBytes) (n : Nat) (b : Byte) (h : pal[2 * n + 1]? = some b) :
    palB1 pal n = b := by simp [palB1, h]

/-- Entry `n` of the decoded table (R160). -/
theorem decodePalette_getElem? (green : GreenTable) (pal : Vector Byte Config.palBytes) (n : Nat) (h : n < 32) :
    (decodePalette green pal)[n]? = some (decodeEntry green (palB0 pal n) (palB1 pal n)) := by
  simp [decodePalette, h]

end Sys2Proof.Machine
end

