-- ==== Sys2Proof/Laws/Compositor.lean ====
section
/-! SUPPORT. What INIT's and COMPOSITE's passes over the pixels do, byte by byte (43_compositor.md). -/

namespace Sys2Proof.Machine

/-- INIT's pass (R175): the fourth byte of every whole pixel is 255, every other byte is as before. -/
theorem fillAlpha_getElem? (pix : List Byte) (m : Nat) (hlen : pix.length = 4 * m) (j : Nat) :
    (fillAlpha pix)[j]? = if j % 4 = 3 ∧ j < 4 * m then some Config.alpha else pix[j]? := by
  induction m generalizing pix j with
  | zero =>
    have : pix = [] := List.eq_nil_of_length_eq_zero (by omega)
    subst this
    simp [fillAlpha]
  | succ m ih =>
    match pix, hlen with
    | r :: g :: b :: a :: rest, hlen =>
      have hrest : rest.length = 4 * m := by simp only [List.length_cons] at hlen; omega
      match j with
      | 0 => simp [fillAlpha]
      | 1 => simp [fillAlpha]
      | 2 => simp [fillAlpha]
      | 3 => simp [fillAlpha]; omega
      | j + 4 =>
        have hm : (j + 4) % 4 = j % 4 := by omega
        have hl : j + 4 < 4 * (m + 1) ↔ j < 4 * m := by omega
        simp only [fillAlpha, List.getElem?_cons_succ, ih rest hrest j, hm, hl]
    | [], h => simp only [List.length_nil] at h; omega
    | [_], h => simp only [List.length_cons, List.length_nil] at h; omega
    | [_, _], h => simp only [List.length_cons, List.length_nil] at h; omega
    | [_, _, _], h => simp only [List.length_cons, List.length_nil] at h; omega

/-- Where COMPOSITE finds no byte above 31, there is none. -/
theorem firstOutOfRange_none (scr : List Byte) (i : Nat) :
    firstOutOfRange i scr = none ↔ ∀ x ∈ scr, x.toNat ≤ 31 := by
  induction scr generalizing i with
  | nil => simp [firstOutOfRange]
  | cons idx scr ih =>
    unfold firstOutOfRange
    split
    · next h => simp only [Config.idxMax] at h; simp; omega
    · next h => simp only [Config.idxMax] at h; simp [ih]; omega

/-- Where it finds one, it is the lowest (R178). -/
theorem firstOutOfRange_some (scr : List Byte) (i k : Nat) (x : Byte) :
    firstOutOfRange i scr = some (k, x) ↔
      ∃ j, k = i + j ∧ scr[j]? = some x ∧ 31 < x.toNat ∧
        ∀ (l : Nat) (y : Byte), l < j → scr[l]? = some y → y.toNat ≤ 31 := by
  induction scr generalizing i with
  | nil => simp [firstOutOfRange]
  | cons idx scr ih =>
    unfold firstOutOfRange
    split
    · next h =>
      constructor
      · intro he
        simp only [Option.some.injEq, Prod.mk.injEq] at he
        obtain ⟨rfl, rfl⟩ := he
        exact ⟨0, rfl, rfl, h, fun l y hl => absurd hl (by omega)⟩
      · rintro ⟨j, rfl, hj, hx, hlow⟩
        cases j with
        | zero => simp only [List.getElem?_cons_zero, Option.some.injEq] at hj; simp [hj]
        | succ j =>
          have := hlow 0 idx (by omega) rfl
          simp only [Config.idxMax] at h
          omega
    · next h =>
      rw [ih]
      constructor
      · rintro ⟨j, rfl, hj, hx, hlow⟩
        refine ⟨j + 1, by omega, by simpa using hj, hx, fun l y hl hy => ?_⟩
        cases l with
        | zero =>
          simp only [List.getElem?_cons_zero, Option.some.injEq] at hy
          subst hy; simp only [Config.idxMax] at h; omega
        | succ l => exact hlow l y (by omega) (by simpa using hy)
      · rintro ⟨j, rfl, hj, hx, hlow⟩
        cases j with
        | zero =>
          simp only [List.getElem?_cons_zero, Option.some.injEq] at hj
          subst hj; simp only [Config.idxMax] at h; omega
        | succ j =>
          exact ⟨j, by omega, by simpa using hj, hx, fun l y hl hy => hlow (l + 1) y (by omega) (by simpa using hy)⟩

/-- An index names an entry of `CT` exactly when it is at most 31 (R178). -/
theorem ct_getElem?_none (ct : Vector Rgb Config.nPal) (x : Byte) : ct[x.toNat]? = none ↔ 31 < x.toNat := by
  constructor
  · intro h
    by_contra hn
    rw [Vector.getElem?_eq_getElem (by simp only [Config.nPal]; omega)] at h
    cases h
  · intro h
    exact Vector.getElem?_eq_none (by simp only [Config.nPal]; omega)

/-- COMPOSITE's pass (R177, R178) on a pixel before which every byte is a valid index: its colour where its own byte is valid. -/
theorem paint_pixel (ct : Vector Rgb Config.nPal) (scr pix : List Byte) (i : Nat) (x : Byte) (c : Rgb)
    (hlen : pix.length = 4 * scr.length) (hi : scr[i]? = some x) (hc : ct[x.toNat]? = some c)
    (hlow : ∀ (j : Nat) (y : Byte), j < i → scr[j]? = some y → y.toNat ≤ 31) :
    (paint ct scr pix)[4 * i]? = some c.r ∧ (paint ct scr pix)[4 * i + 1]? = some c.g ∧
    (paint ct scr pix)[4 * i + 2]? = some c.b := by
  induction scr generalizing pix i with
  | nil => simp at hi
  | cons idx scr ih =>
    match pix, hlen with
    | r :: g :: b :: a :: rest, hlen =>
      have hrest : rest.length = 4 * scr.length := by simp only [List.length_cons] at hlen; omega
      cases i with
      | zero =>
        simp only [List.getElem?_cons_zero, Option.some.injEq] at hi
        subst hi
        simp [paint, hc]
      | succ i =>
        have h0 := hlow 0 idx (by omega) rfl
        obtain ⟨d, hd⟩ : ∃ d, ct[idx.toNat]? = some d :=
          buffer_getElem?_isSome ct (by simp only [Config.nPal]; omega)
        have := ih rest i hrest (by simpa using hi) fun j y hj hy => hlow (j + 1) y (by omega) (by simpa using hy)
        have e0 : 4 * (i + 1) = 4 * i + 4 := by omega
        have e1 : 4 * (i + 1) + 1 = (4 * i + 1) + 4 := by omega
        have e2 : 4 * (i + 1) + 2 = (4 * i + 2) + 4 := by omega
        rw [e1, e2, e0]
        simpa [paint, hd] using this
    | [], h => simp only [List.length_cons, List.length_nil] at h; omega
    | [_], h => simp only [List.length_cons, List.length_nil] at h; omega
    | [_, _], h => simp only [List.length_cons, List.length_nil] at h; omega
    | [_, _, _], h => simp only [List.length_cons, List.length_nil] at h; omega

/-- COMPOSITE's pass writes no alpha byte (R177, R264). -/
theorem paint_alpha (ct : Vector Rgb Config.nPal) (scr pix : List Byte) (j : Nat) (hj : j % 4 = 3) :
    (paint ct scr pix)[j]? = pix[j]? := by
  induction scr, pix using paint.induct ct generalizing j with
  | case1 idx scr r g b a pix c h ih =>
    match j with
    | 0 | 1 | 2 => omega
    | 3 => simp [paint, h]
    | j + 4 => simpa [paint, h] using ih j (by omega)
  | case2 idx scr r g b a pix h => simp [paint, h]
  | case3 scr pix h => rw [paint]; exact h

/-- COMPOSITE's pass stops at an invalid index: every byte from that pixel on is as before (R178). -/
theorem paint_after (ct : Vector Rgb Config.nPal) (scr pix : List Byte) (i : Nat) (x : Byte)
    (hi : scr[i]? = some x) (hx : 31 < x.toNat) (k : Nat) (hk : 4 * i ≤ k) :
    (paint ct scr pix)[k]? = pix[k]? := by
  induction scr, pix using paint.induct ct generalizing i k with
  | case1 idx scr r g b a pix c h ih =>
    cases i with
    | zero =>
      simp only [List.getElem?_cons_zero, Option.some.injEq] at hi
      subst hi
      rw [(ct_getElem?_none ct idx).mpr hx] at h
      cases h
    | succ i =>
      match k, hk with
      | k + 4, hk => simpa [paint, h] using ih i (by simpa using hi) k (by omega)
      | 0, hk | 1, hk | 2, hk | 3, hk => omega
  | case2 idx scr r g b a pix h => simp [paint, h]
  | case3 scr pix h => rw [paint]; exact h

theorem scr_mem_iff (scr : Vector Byte Config.nPix) (p : Byte → Prop) :
    (∀ x ∈ scr.toList, p x) ↔ ∀ (i : Nat) (x : Byte), scr[i]? = some x → p x := by
  constructor
  · intro h i x hx
    rw [← Vector.getElem?_toList] at hx
    exact h x (List.mem_of_getElem? hx)
  · intro h x hx
    obtain ⟨i, hi⟩ := List.mem_iff_getElem?.mp hx
    rw [Vector.getElem?_toList] at hi
    exact h i x hi

theorem pix_length (b : Block) : b.pix.toList.length = 4 * b.scr.toList.length := by
  simp [Config.pixBytes, Config.nPix]

theorem compositePix_getElem? (b : Block) (j : Nat) :
    (compositePix b)[j]? = (paint b.ct b.scr.toList b.pix.toList)[j]? := by simp [compositePix]

/-- The alpha bytes of COMPOSITE's `PIX`. -/
theorem compositePix_alpha (b : Block) (j : Nat) (hj : j % 4 = 3) : (compositePix b)[j]? = b.pix[j]? := by
  rw [compositePix_getElem?, paint_alpha _ _ _ _ hj, Vector.getElem?_toList]

/-- A pixel of COMPOSITE's `PIX`, where its byte and all before it are valid. -/
theorem compositePix_pixel (b : Block) (i : Nat) (x : Byte) (c : Rgb) (hi : b.scr[i]? = some x)
    (hc : b.ct[x.toNat]? = some c) (hlow : ∀ (j : Nat) (y : Byte), j < i → b.scr[j]? = some y → y.toNat ≤ 31) :
    (compositePix b)[4 * i]? = some c.r ∧ (compositePix b)[4 * i + 1]? = some c.g ∧
    (compositePix b)[4 * i + 2]? = some c.b ∧ (compositePix b)[4 * i + 3]? = b.pix[4 * i + 3]? := by
  have h := paint_pixel b.ct b.scr.toList b.pix.toList i x c (pix_length b)
    (by rw [Vector.getElem?_toList]; exact hi) hc (by simpa only [Vector.getElem?_toList] using hlow)
  simp only [compositePix_getElem?]
  refine ⟨h.1, h.2.1, h.2.2, ?_⟩
  rw [paint_alpha _ _ _ _ (by omega), Vector.getElem?_toList]

/-- The bytes of COMPOSITE's `PIX` from an invalid index on. -/
theorem compositePix_after (b : Block) (i : Nat) (x : Byte) (hi : b.scr[i]? = some x) (hx : 31 < x.toNat)
    (k : Nat) (hk : 4 * i ≤ k) : (compositePix b)[k]? = b.pix[k]? := by
  rw [compositePix_getElem?, paint_after _ _ _ i x (by rw [Vector.getElem?_toList]; exact hi) hx k hk,
    Vector.getElem?_toList]

/-- INIT's `PIX`, byte by byte. -/
theorem initPix_getElem? (pix : Vector Byte Config.pixBytes) (h) (j : Nat) :
    (bufferOf (n := Config.pixBytes) (fillAlpha pix.toList) h)[j]? =
      if j % 4 = 3 ∧ j < 307200 then some Config.alpha else pix[j]? := by
  rw [bufferOf_getElem?, fillAlpha_getElem? _ 76800 (by simp), Vector.getElem?_toList]

end Sys2Proof.Machine
end

