-- ==== Sys2Proof/Laws/Exec.lean ====
section
/-! SUPPORT. For each operation, once, everything it can do when it answers a next state; the same for a step; and the
induction over a run. -/

namespace Sys2Proof.Machine

/-! ## Shared operations -/

/-- The halt entry, every field (R225). -/
theorem haltEntry_eq (c : BitVec 3) (i0 i1 : Nat) (s : State) : haltEntry c i0 i1 s =
    { s with
      block := { s.block with
        faultCause := c
        faultInfo0 := trunc (s.config.ptrWidth + 1) i0
        faultInfo1 := trunc (s.config.ptrWidth + 1) i1
        phase := Phase.halt }
      trace := s.trace ++ [.fault c i0 i1] } := rfl

/-- What a call's return leaves has at most `2^PTR_WIDTH` bytes (R24), in canonical form. -/
theorem landed_bounds (w : Nat) (m : ComputeModule) :
    (m.landed w).size ≤ 2 ^ w ∧ Memory.wf (m.landed w).mem := ⟨Nat.min_le_right _ _, Memory.ofCells_wf _⟩

/-- What the return of the queries leaves (R78). -/
theorem queriesReturned_cases (s : State) :
    (s.queryReturns = [] ∧ s.queriesReturned = s) ∨
    ∃ m rest, s.queryReturns = m :: rest ∧
      s.queriesReturned = { s with moduleNow := m.landed s.config.ptrWidth, queryReturns := rest } := by
  unfold State.queriesReturned
  cases h : s.queryReturns with
  | nil => exact .inl ⟨rfl, rfl⟩
  | cons m rest => exact .inr ⟨m, rest, rfl, rfl⟩

/-! ## Operations with more than one outcome -/

/-- START (R192). -/
theorem execStart_cases {cap : BitVec 4} {s t : State} (h : execStart cap s = .next t) :
    (s.block.phase = Phase.idle ∧ cap = 0b1111#4 ∧
      t = { s with
        block := { s.block with startErr := missingCaps cap, cap := cap, phase := Phase.wait }
        trace := s.trace ++ [.startStatus true] }) ∨
    (s.block.phase = Phase.idle ∧ cap ≠ 0b1111#4 ∧
      t = { s with
        block := { s.block with startErr := missingCaps cap }
        trace := s.trace ++ [.startStatus false] }) ∨
    (s.block.phase ≠ Phase.idle ∧ t = s) := by
  simp only [execStart, Host.Outcome.next.injEq] at h
  by_cases hp : s.block.phase = Phase.idle
  · rw [if_pos hp] at h
    unfold startAccepted at h
    by_cases hc : cap = 0b1111#4
    · rw [if_pos hc] at h; exact .inl ⟨hp, hc, h.symm⟩
    · rw [if_neg hc] at h; exact .inr (.inl ⟨hp, hc, h.symm⟩)
  · rw [if_neg hp] at h; exact .inr (.inr ⟨hp, h.symm⟩)

/-- TICK (R194). -/
theorem execTick_cases {s t : State} (h : execTick s = .next t) :
    (s.block.phase = Phase.wait ∧ t = { s with block := { s.block with phase := Phase.sample } }) ∨
    (s.block.phase ≠ Phase.wait ∧ t = s) := by
  simp only [execTick, Host.Outcome.next.injEq] at h
  by_cases hp : s.block.phase = Phase.wait
  · rw [if_pos hp] at h; exact .inl ⟨hp, h.symm⟩
  · rw [if_neg hp] at h; exact .inr ⟨hp, h.symm⟩

/-- STEP (R196, R197). -/
theorem execStep_cases {s t : State} (h : execStep s = .next t) :
    (hasStep s.block.cap = false ∧
      t = haltEntry Cause.accessorMissing (missingCaps s.block.cap).toNat 0 s) ∨
    (hasStep s.block.cap = true ∧ s.stepReturns = [] ∧ t = s) ∨
    (∃ m rest, hasStep s.block.cap = true ∧ s.stepReturns = m :: rest ∧
      t = { s with
        block := { s.block with phase := Phase.acquire }
        moduleNow := m.landed s.config.ptrWidth
        stepReturns := rest
        trace := s.trace ++ [.stepReq s.block.p1Mask.toNat s.block.p2Mask.toNat] }) := by
  simp only [execStep, Host.Outcome.next.injEq] at h
  cases hc : hasStep s.block.cap with
  | false => rw [hc] at h; exact .inl ⟨rfl, h.symm⟩
  | true =>
    rw [hc, if_pos rfl] at h
    cases hr : s.stepReturns with
    | nil => rw [hr] at h; exact .inr (.inl ⟨rfl, rfl, h.symm⟩)
    | cons m rest => rw [hr] at h; exact .inr (.inr ⟨m, rest, rfl, rfl, h.symm⟩)

/-- ACQUIRE (R140). -/
theorem execAcquire_cases {s t : State} (h : execAcquire s = .next t) :
    (hasQueries s.block.cap = false ∧
      t = haltEntry Cause.accessorMissing (missingCaps s.block.cap).toNat 0 s) ∨
    (∃ m rest, hasQueries s.block.cap = true ∧
      ((s.queryReturns = [] ∧ rest = [] ∧ m = s.moduleNow) ∨
       ∃ q, s.queryReturns = q :: rest ∧ m = q.landed s.config.ptrWidth) ∧
      t = { s with
        block := { s.block with
          screenPtr := trunc s.config.ptrWidth m.screenPtr
          palettePtr := trunc s.config.ptrWidth m.palettePtr
          memSz := trunc (s.config.ptrWidth + 1) m.size
          phase := Phase.xscreen }
        moduleNow := m
        queryReturns := rest }) := by
  simp only [execAcquire, Host.Outcome.next.injEq] at h
  cases hc : hasQueries s.block.cap with
  | false => rw [hc] at h; exact .inl ⟨rfl, h.symm⟩
  | true =>
    rw [hc, if_pos rfl] at h
    rcases queriesReturned_cases s with ⟨hq, he⟩ | ⟨m, rest, hq, he⟩
    · rw [he] at h
      refine .inr ⟨s.moduleNow, [], rfl, .inl ⟨hq, rfl, rfl⟩, ?_⟩
      rw [← h, ← hq]; rfl
    · rw [he] at h
      exact .inr ⟨m.landed s.config.ptrWidth, rest, rfl, .inr ⟨m, hq, rfl⟩, h.symm⟩

/-- XSCREEN (R142). -/
theorem execXscreen_cases {s t : State} (h : execXscreen s = .next t) :
    (s.block.memSz < s.block.screenPtr + 76800 ∧
      t = haltEntry Cause.oobScreen s.block.screenPtr s.block.memSz s) ∨
    (∃ bytes, s.block.screenPtr + 76800 ≤ s.block.memSz ∧
      memRead s.moduleNow s.block.screenPtr Config.nPix = some bytes ∧
      t = { s with block := { s.block with scr := bytes, phase := Phase.xpal } }) := by
  unfold execXscreen at h
  split at h
  · next hf =>
    rw [regionFits_iff] at hf
    split at h
    · next bytes hb => exact .inr ⟨bytes, hf, hb, (Host.Outcome.next.inj h).symm⟩
    · cases h
  · next hf =>
    rw [Bool.not_eq_true, regionFits_false_iff] at hf
    exact .inl ⟨hf, (Host.Outcome.next.inj h).symm⟩

/-- XPAL (R144). -/
theorem execXpal_cases {s t : State} (h : execXpal s = .next t) :
    (s.block.memSz < s.block.palettePtr + 64 ∧
      t = haltEntry Cause.oobPalette s.block.palettePtr s.block.memSz s) ∨
    (∃ bytes, s.block.palettePtr + 64 ≤ s.block.memSz ∧
      memRead s.moduleNow s.block.palettePtr Config.palBytes = some bytes ∧
      t = { s with block := { s.block with pal := bytes, phase := Phase.decode } }) := by
  unfold execXpal at h
  split at h
  · next hf =>
    rw [regionFits_iff] at hf
    split at h
    · next bytes hb => exact .inr ⟨bytes, hf, hb, (Host.Outcome.next.inj h).symm⟩
    · cases h
  · next hf =>
    rw [Bool.not_eq_true, regionFits_false_iff] at hf
    exact .inl ⟨hf, (Host.Outcome.next.inj h).symm⟩

/-- COMPOSITE (R177, R178). -/
theorem execComposite_cases {s t : State} (h : execComposite s = .next t) :
    ((∀ (i : Nat) (x : Byte), s.block.scr[i]? = some x → x.toNat ≤ 31) ∧
      t = { s with block := { s.block with pix := compositePix s.block, phase := Phase.present } }) ∨
    (∃ (i : Nat) (x : Byte), s.block.scr[i]? = some x ∧ 31 < x.toNat ∧
      (∀ (j : Nat) (y : Byte), j < i → s.block.scr[j]? = some y → y.toNat ≤ 31) ∧
      t = haltEntry Cause.indexRange i x.toNat
        { s with block := { s.block with pix := compositePix s.block } }) := by
  simp only [execComposite, Host.Outcome.next.injEq] at h
  cases hf : firstOutOfRange 0 s.block.scr.toList with
  | none =>
    rw [hf] at h
    exact .inl ⟨(scr_mem_iff _ _).mp ((firstOutOfRange_none _ _).mp hf), h.symm⟩
  | some p =>
    obtain ⟨i, x⟩ := p
    rw [hf] at h
    obtain ⟨j, rfl, hj, hx, hlow⟩ := (firstOutOfRange_some _ _ _ _).mp hf
    simp only [Vector.getElem?_toList, Nat.zero_add] at hj hlow h
    refine .inr ⟨j, x, hj, hx, hlow, ?_⟩
    rw [← h]
    cases s.config.oorPolicy
    rfl

/-- COMPOSITE on valid indices only (R177). -/
theorem execComposite_valid (s : State) (h : ∀ (i : Nat) (x : Byte), s.block.scr[i]? = some x → x.toNat ≤ 31) :
    execComposite s = .next { s with block := { s.block with pix := compositePix s.block, phase := Phase.present } } := by
  have hn : firstOutOfRange 0 s.block.scr.toList = none :=
    (firstOutOfRange_none _ _).mpr ((scr_mem_iff _ _).mpr h)
  simp only [execComposite, hn]
  rfl

/-- COMPOSITE at the lowest index above 31 (R178, R225). -/
theorem execComposite_invalid (s : State) (i : Nat) (x : Byte) (hi : s.block.scr[i]? = some x) (hx : 31 < x.toNat)
    (hl : ∀ (j : Nat) (y : Byte), j < i → s.block.scr[j]? = some y → y.toNat ≤ 31) :
    execComposite s = .next (haltEntry Cause.indexRange i x.toNat
      { s with block := { s.block with pix := compositePix s.block } }) := by
  have hs : firstOutOfRange 0 s.block.scr.toList = some (i, x) :=
    (firstOutOfRange_some _ _ _ _).mpr ⟨i, by omega, by simpa using hi, hx, by simpa using hl⟩
  simp only [execComposite, hs]
  cases s.config.oorPolicy
  rfl

/-! ## A step and a run -/

/-- The fetch takes a turn off the list and changes nothing else. -/
theorem fetch_eq (s : State) : s.fetch.2 = { s with turns := s.fetch.2.turns } := by
  unfold State.fetch
  cases s.turns with
  | nil => rfl
  | cons turn rest => cases turn <;> rfl

theorem fetch_turns (s : State) : s.fetch.2.turns = s.turns.tail := by
  unfold State.fetch
  cases h : s.turns with
  | nil => exact h
  | cons turn rest => cases turn <;> rfl

/-- The state a step's operation runs in. -/
theorem fetch_snd (s : State) : s.fetch.2 = { s with turns := s.turns.tail } := by
  rw [fetch_eq s, fetch_turns s]

/-- What a step can do when it answers a next state. -/
theorem step_cases {s t : State} (h : step s = .next t) :
    (∃ i, decode s.fetch.1 = .ok i ∧ exec i { s with turns := s.turns.tail } = .next t) ∨
    (decode s.fetch.1 = .error .noEvent ∧ t = { s with turns := s.turns.tail }) := by
  unfold step at h
  rw [fetch_snd] at h
  cases hd : decode s.fetch.1 with
  | ok i => rw [hd] at h; exact .inl ⟨i, rfl, h⟩
  | error e =>
    rw [hd] at h
    cases e with
    | noEvent => exact .inr ⟨rfl, (Host.Outcome.next.inj h).symm⟩
    | reservedPhase c => cases h

/-- The word of a step: an event's, or the code in `PHASE`. -/
theorem fetch_fst_cases (s : State) :
    (∃ code cap, s.fetch.1 = .hevt code cap ∧ ∃ rest, s.turns = .host code cap :: rest) ∨
    (∃ word, s.fetch.1 = .kevt word ∧ ∃ rest, s.turns = .key word :: rest) ∨
    (s.fetch.1 = .phase s.block.phase ∧ (s.turns = [] ∨ ∃ rest, s.turns = .seq :: rest)) := by
  unfold State.fetch
  cases h : s.turns with
  | nil => exact .inr (.inr ⟨rfl, .inl rfl⟩)
  | cons turn rest =>
    cases turn with
    | seq => exact .inr (.inr ⟨rfl, .inr ⟨rest, rfl⟩⟩)
    | host code cap => exact .inl ⟨code, cap, rfl, rest, rfl⟩
    | key word => exact .inr (.inl ⟨word, rfl, rest, rfl⟩)

/-- What an event's word decodes to. -/
theorem decodeHostEvent_cases {code : BitVec 2} {cap : BitVec 4} {i : Instr} (h : decode (.hevt code cap) = .ok i) :
    (code = HostEvent.tick ∧ i = .tick) ∨ (code = HostEvent.start ∧ i = .start cap) ∨
    (code = HostEvent.reset ∧ i = .reset) := by
  have hc : ∀ c : BitVec 2, c = 0#2 ∨ c = 1#2 ∨ c = 2#2 ∨ c = 3#2 := by decide
  rcases hc code with rfl | rfl | rfl | rfl <;> simp_all [decode, decodeHostEvent]

/-- What a key event's word decodes to. -/
theorem decodeKeyEvent_cases (word : BitVec 5) :
    decodeKeyEvent word = .keydown (keyField word) ∨ decodeKeyEvent word = .keyup (keyField word) := by
  unfold decodeKeyEvent
  split
  · exact .inl rfl
  · exact .inr rfl

/-- What a `PHASE` code decodes to. -/
theorem decodePhase_cases {code : BitVec 4} {i : Instr} (h : decodePhase code = .ok i) :
    (code = Phase.idle ∧ i = .idle) ∨ (code = Phase.sample ∧ i = .sample) ∨ (code = Phase.step ∧ i = .step) ∨
    (code = Phase.acquire ∧ i = .acquire) ∨ (code = Phase.xscreen ∧ i = .xscreen) ∨ (code = Phase.xpal ∧ i = .xpal) ∨
    (code = Phase.decode ∧ i = .decode) ∨ (code = Phase.composite ∧ i = .composite) ∨
    (code = Phase.present ∧ i = .present) ∨ (code = Phase.wait ∧ i = .wait) ∨ (code = Phase.init ∧ i = .init) ∨
    (code = Phase.halt ∧ i = .halt) := by
  have hc : ∀ c : BitVec 4, c = 0#4 ∨ c = 1#4 ∨ c = 2#4 ∨ c = 3#4 ∨ c = 4#4 ∨ c = 5#4 ∨ c = 6#4 ∨ c = 7#4 ∨
      c = 8#4 ∨ c = 9#4 ∨ c = 10#4 ∨ c = 11#4 ∨ c = 12#4 ∨ c = 13#4 ∨ c = 14#4 ∨ c = 15#4 := by decide
  rcases hc code with rfl | rfl | rfl | rfl | rfl | rfl | rfl | rfl | rfl | rfl | rfl | rfl | rfl | rfl | rfl | rfl <;>
    simp_all [decodePhase]

/-- What a step does, by where its operation comes from: no event; an event of the host, RESET as the next turn; a key
event; or the phase operation that `PHASE` names. -/
theorem step_operation_cases {s t : State} (h : step s = .next t) :
    (nextInstr s = none ∧ t = { s with turns := s.turns.tail }) ∨
    ∃ i, nextInstr s = some i ∧ exec i { s with turns := s.turns.tail } = .next t ∧
      ((∃ cap, i = .start cap) ∨ i = .tick ∨ (i = .reset ∧ ∃ cap rest, s.turns = .host HostEvent.reset cap :: rest) ∨
       (∃ key, i = .keydown key ∨ i = .keyup key) ∨ decodePhase s.block.phase = .ok i) := by
  rcases step_cases h with ⟨i, hd, he⟩ | ⟨hd, rfl⟩
  · right
    refine ⟨i, by simp [nextInstr, hd, Except.toOption], he, ?_⟩
    rcases fetch_fst_cases s with ⟨c, p, hf, r, hr⟩ | ⟨w, hf, _⟩ | ⟨hf, _⟩
    · rw [hf] at hd
      rcases decodeHostEvent_cases hd with ⟨rfl, rfl⟩ | ⟨rfl, rfl⟩ | ⟨rfl, rfl⟩
      · exact .inr (.inl rfl)
      · exact .inl ⟨_, rfl⟩
      · exact .inr (.inr (.inl ⟨rfl, _, _, hr⟩))
    · rw [hf] at hd
      have hw : decodeKeyEvent w = i := Except.ok.inj hd
      rcases decodeKeyEvent_cases w with h | h <;> rw [h] at hw <;> subst hw
      · exact .inr (.inr (.inr (.inl ⟨_, .inl rfl⟩)))
      · exact .inr (.inr (.inr (.inl ⟨_, .inr rfl⟩)))
    · rw [hf] at hd
      exact .inr (.inr (.inr (.inr hd)))
  · exact .inl ⟨by simp [nextInstr, hd, Except.toOption], rfl⟩

/-- No operation touches the turns to come. -/
theorem exec_turns {i : Instr} {s t : State} (h : exec i s = .next t) : t.turns = s.turns := by
  cases i with
  | start c => rcases execStart_cases h with ⟨_, _, rfl⟩ | ⟨_, _, rfl⟩ | ⟨_, rfl⟩ <;> rfl
  | tick => rcases execTick_cases h with ⟨_, rfl⟩ | ⟨_, rfl⟩ <;> rfl
  | step => rcases execStep_cases h with ⟨_, rfl⟩ | ⟨_, _, rfl⟩ | ⟨m, r, _, _, rfl⟩ <;> rfl
  | acquire => rcases execAcquire_cases h with ⟨_, rfl⟩ | ⟨m, r, _, _, rfl⟩ <;> rfl
  | xscreen => rcases execXscreen_cases h with ⟨_, rfl⟩ | ⟨m, _, _, rfl⟩ <;> rfl
  | xpal => rcases execXpal_cases h with ⟨_, rfl⟩ | ⟨m, _, _, rfl⟩ <;> rfl
  | composite => rcases execComposite_cases h with ⟨_, rfl⟩ | ⟨i, x, _, _, _, rfl⟩ <;> rfl
  | _ => cases h; rfl

/-- A step takes one turn off the list. -/
theorem step_turns {s t : State} (h : step s = .next t) : t.turns = s.turns.tail := by
  rcases step_operation_cases h with ⟨_, rfl⟩ | ⟨i, _, he, _⟩
  · rfl
  · exact exec_turns he

/-- What a key event's word does: the line of its key field takes its `down` bit (R102, R120, R121). -/
theorem keyEvent_eq (word : BitVec 5) (s : State) : exec (decodeKeyEvent word) s =
    .next { s with block := { s.block with keys := writeKey s.block.keys (keyField word) (word.getLsbD 4) } } := by
  unfold decodeKeyEvent
  cases h : word.getLsbD 4 <;> rfl

/-- A `PHASE` code that is not reserved decodes, a reserved one is refused (R108). -/
theorem decodePhase_legal (code : BitVec 4) : (∃ i, decodePhase code = .ok i) ↔ phaseCodeLegal code = true := by
  have h : ∀ c : BitVec 4, (decodePhase c).isOk = phaseCodeLegal c := by decide
  rw [← h code]
  cases hd : decodePhase code <;> simp [Except.isOk, Except.toBool]

/-- One step of any machine and then the rest of the run. -/
theorem coreRun_succ (M : Host.Core) (k : Nat) (s t : M.State) (h : M.step s = .next t) :
    Host.Core.run M (k + 1) s = Host.Core.run M k t := by rw [Host.Core.run, h]

/-- A run of any machine that goes on has a first step. -/
theorem coreRun_succ_inv (M : Host.Core) (k : Nat) (s t : M.State) (h : Host.Core.run M (k + 1) s = .next t) :
    ∃ u, M.step s = .next u ∧ Host.Core.run M k u = .next t := by
  rw [Host.Core.run] at h
  cases hst : M.step s with
  | next u => rw [hst] at h; exact ⟨u, rfl, h⟩
  | fault r => rw [hst] at h; cases h
  | refused r => rw [hst] at h; cases h

/-- One step and then the rest of the run. -/
theorem run_succ (k : Nat) (s t : State) (h : step s = .next t) :
    Host.Core.run Sys2Proof.core (k + 1) s = Host.Core.run Sys2Proof.core k t := coreRun_succ Sys2Proof.core k s t h

/-- A run that goes on has a first step. -/
theorem run_succ_inv {k : Nat} {s t : State} (h : Host.Core.run Sys2Proof.core (k + 1) s = .next t) :
    ∃ u, step s = .next u ∧ Host.Core.run Sys2Proof.core k u = .next t := coreRun_succ_inv Sys2Proof.core k s t h

/-- Induction over a run: what holds of the first state and is kept by every step holds of the last. -/
theorem run_induction {P : State → Prop} (hstep : ∀ s t, P s → step s = .next t → P t) (k : Nat) (s t : State)
    (hs : P s) (h : Host.Core.run Sys2Proof.core k s = .next t) : P t := by
  induction k generalizing s with
  | zero => cases h; exact hs
  | succ k ih =>
    obtain ⟨u, hu, hr⟩ := run_succ_inv h
    exact ih u (hstep s u hs hu) hr

/-- A run that always goes on, by an invariant under which every step goes on. -/
theorem run_goes_on {P : State → Prop} (hstep : ∀ s, P s → ∃ t, step s = .next t ∧ P t) (k : Nat) (s : State) (hs : P s) :
    ∃ t, Host.Core.run Sys2Proof.core k s = .next t ∧ P t := by
  induction k generalizing s with
  | zero => exact ⟨s, rfl, hs⟩
  | succ k ih =>
    obtain ⟨u, hu, hpu⟩ := hstep s hs
    obtain ⟨t, ht, hpt⟩ := ih u hpu
    exact ⟨t, (run_succ k s u hu).trans ht, hpt⟩

end Sys2Proof.Machine
end

