-- ==== Sys2Proof/Laws/PerInstr.lean ====
section
/-! SUPPORT. The per-instruction family `OneRow`: each operation is well formed and has exactly one row in the opcode table,
of the format of its word (30_encoding.md R100, R105), constructor by constructor. -/

namespace Sys2Proof.Laws

/-- The rows under the operation's mnemonic are one, and that row's format is the format of the operation's word. -/
def OneRow.Statement (i : Instr) : Prop :=
  i.wellFormed = true ∧
  ((opcodeTable.filter fun row => row.mnemonic == i.mnemonic).map fun row => row.format) = [(encode i).format]

theorem OneRow.reset : OneRow.Statement .reset := ⟨rfl, by decide⟩
theorem OneRow.tick : OneRow.Statement .tick := ⟨rfl, by decide⟩
theorem OneRow.idle : OneRow.Statement .idle := ⟨rfl, by decide⟩
theorem OneRow.sample : OneRow.Statement .sample := ⟨rfl, by decide⟩
theorem OneRow.step : OneRow.Statement .step := ⟨rfl, by decide⟩
theorem OneRow.acquire : OneRow.Statement .acquire := ⟨rfl, by decide⟩
theorem OneRow.xscreen : OneRow.Statement .xscreen := ⟨rfl, by decide⟩
theorem OneRow.xpal : OneRow.Statement .xpal := ⟨rfl, by decide⟩
theorem OneRow.decode : OneRow.Statement .decode := ⟨rfl, by decide⟩
theorem OneRow.composite : OneRow.Statement .composite := ⟨rfl, by decide⟩
theorem OneRow.present : OneRow.Statement .present := ⟨rfl, by decide⟩
theorem OneRow.wait : OneRow.Statement .wait := ⟨rfl, by decide⟩
theorem OneRow.init : OneRow.Statement .init := ⟨rfl, by decide⟩
theorem OneRow.halt : OneRow.Statement .halt := ⟨rfl, by decide⟩

theorem OneRow.start (cap : BitVec 4) : OneRow.Statement (.start cap) :=
  ⟨rfl, by decide +revert⟩
theorem OneRow.keydown (key : KeyCode) : OneRow.Statement (.keydown key) :=
  ⟨rfl, by decide +revert⟩
theorem OneRow.keyup (key : KeyCode) : OneRow.Statement (.keyup key) :=
  ⟨rfl, by decide +revert⟩

end Sys2Proof.Laws
end

