-- ==== Sys2Proof/Tests/Slice0.lean ====
section
/-! SUPPORT. The model's own tests: well-formedness, decoding from words written out of 30_encoding.md, single operations
with the values of 95_test_vectors.md, and for each statement with hypotheses a witness that meets them. -/

namespace Sys2Proof.Tests

open Sys2Proof.Machine

/-! ## States -/

/-- A module of 131072 bytes with its screen at 1024 and its palette at 77824 (95_test_vectors.md, program P1). -/
def someModule : ComputeModule := { mem := [(77824, 0xFF#8)], size := 131072, screenPtr := 1024, palettePtr := 77824 }

/-- A block in phase `p` with capabilities `cap`, every buffer of zeros but the alpha bytes. -/
def someBlock (p cap : BitVec 4) : Block :=
  { keys := List.replicate 15 false
    p1Mask := 1#6, p2Mask := 25#6, screenPtr := 54272, palettePtr := 131008, memSz := 131072
    scr := Vector.replicate Config.nPix 0#8, pal := Vector.replicate Config.palBytes 0#8
    ct := Vector.replicate Config.nPal default, pix := Vector.replicate Config.pixBytes 255#8
    phase := p, cap := cap, faultCause := 0#3, faultInfo0 := 0, faultInfo1 := 0, startErr := 0#4 }

/-- A machine with that block and that module, nothing to come. -/
def machineIn (p cap : BitVec 4) : State :=
  { block := someBlock p cap, moduleNow := someModule, stepReturns := [], queryReturns := [], turns := [], trace := []
    config := defaultConfig, draws := 7 }

/-- What holds of the state an operation leaves. -/
def leaves {α : Type} (o : Host.Outcome State Fault Refusal) (f : State → α) : Option α :=
  match o with
  | .next s => some (f s)
  | .fault _ | .refused _ => none

/-- The key lines of a list of codes held, every other one released. -/
def held (codes : List Nat) : List Bool := (List.range 15).map fun k => codes.contains k

/-- A machine in phase SAMPLE with those keys held. -/
def holding (codes : List Nat) : State :=
  { machineIn 1#4 15#4 with block := { someBlock 1#4 15#4 with keys := held codes } }

/-- A machine in phase `p` with those pointers and that size latched. -/
def latched (p : BitVec 4) (sp pp size : Nat) : State :=
  { machineIn p 15#4 with block := { someBlock p 15#4 with screenPtr := sp, palettePtr := pp, memSz := size } }

/-- A machine in phase `p` whose module's step returns. -/
def returning (p cap : BitVec 4) : State := { machineIn p cap with stepReturns := [someModule] }

/-! ## Well-formedness -/

theorem test_reserved_phase_codes_are_ill_formed :
    [10#4, 11#4, 12#4, 13#4].all (fun c => !(OpWord.phase c).wellFormed) = true := by decide

theorem test_other_phase_codes_are_well_formed :
    [0#4, 1#4, 2#4, 3#4, 4#4, 5#4, 6#4, 7#4, 8#4, 9#4, 14#4, 15#4].all (fun c => (OpWord.phase c).wellFormed) = true := by
  decide

theorem test_no_event_is_ill_formed : (OpWord.hevt 0b00#2 0#4).wellFormed = false := by decide

theorem test_payload_without_start_is_ill_formed :
    (OpWord.hevt 0b01#2 1#4).wellFormed = false ∧ (OpWord.hevt 0b11#2 8#4).wellFormed = false := by decide

/-- Code 15 has no line (R104), and a line that `NKEYS` leaves out is none either (R21). -/
theorem test_binding_to_a_code_without_a_line_is_ill_formed :
    (Binding.mk defaultRow1 #v[[7#4], [9#4], [8#4], [10#4], [11#4, 15#4], [13#4]]).wellFormed 15 = false ∧
    (Binding.mk #v[[15#4], [], [], [], [], []] defaultRow2).wellFormed 16 = false ∧
    defaultBinding.wellFormed 14 = false ∧ ({ defaultConfig with nKeys := 7 } : Config).wellFormed = false := by decide

theorem test_default_configuration_is_well_formed : defaultConfig.wellFormed = true := by decide

/-- The products 00_scope.md R7 states. -/
theorem test_constants :
    Config.frameWidth * Config.frameHeight = Config.nPix ∧ Config.nPal * Config.palEntryBytes = Config.palBytes ∧
    Config.nPix * Config.pixCh = Config.pixBytes ∧ Config.nPal - 1 = Config.idxMax := by decide

/-! ## Decoding, from the tables of 30_encoding.md R101, R102, R103 -/

theorem test_decode_phases :
    decode (.phase 0b0000#4) = .ok .idle ∧ decode (.phase 0b0001#4) = .ok .sample ∧
    decode (.phase 0b0010#4) = .ok .step ∧ decode (.phase 0b0011#4) = .ok .acquire ∧
    decode (.phase 0b0100#4) = .ok .xscreen ∧ decode (.phase 0b0101#4) = .ok .xpal ∧
    decode (.phase 0b0110#4) = .ok .decode ∧ decode (.phase 0b0111#4) = .ok .composite ∧
    decode (.phase 0b1000#4) = .ok .present ∧ decode (.phase 0b1001#4) = .ok .wait ∧
    decode (.phase 0b1110#4) = .ok .init ∧ decode (.phase 0b1111#4) = .ok .halt :=
  ⟨rfl, rfl, rfl, rfl, rfl, rfl, rfl, rfl, rfl, rfl, rfl, rfl⟩

theorem test_decode_reserved_phases :
    decode (.phase 0b1010#4) = .error (.reservedPhase 10#4) ∧ decode (.phase 0b1101#4) = .error (.reservedPhase 13#4) :=
  ⟨rfl, rfl⟩

theorem test_decode_key_events :
    decode (.kevt 0b10000#5) = .ok (.keydown 0#4) ∧ decode (.kevt 0b11010#5) = .ok (.keydown 10#4) ∧
    decode (.kevt 0b00110#5) = .ok (.keyup 6#4) ∧ decode (.kevt 0b01111#5) = .ok (.keyup 15#4) :=
  ⟨rfl, rfl, rfl, rfl⟩

theorem test_decode_host_events :
    decode (.hevt 0b01#2 0#4) = .ok .tick ∧ decode (.hevt 0b10#2 0b1001#4) = .ok (.start 9#4) ∧
    decode (.hevt 0b11#2 0#4) = .ok .reset ∧ decode (.hevt 0b00#2 0#4) = .error .noEvent := ⟨rfl, rfl, rfl, rfl⟩

theorem test_opcode_table_has_no_overlap :
    opcodeTable.Pairwise (fun a b => a.format ≠ b.format ∨ a.value &&& (a.mask &&& b.mask) ≠ b.value &&& (a.mask &&& b.mask)) := by
  decide

/-! ## Input sampler (95_test_vectors.md 2.1) -/

theorem test_keydown_word_11110_sets_line_14 :
    leaves (exec (decodeKeyEvent 0b11110#5) (holding [])) (fun t => t.block.keys) =
      some [false, false, false, false, false, false, false, false, false, false, false, false, false, false, true] := by
  decide

theorem test_keydown_other_changes_nothing :
    leaves (exec (.keydown 15#4) (holding [3])) (fun t => t.block.keys) = some (held [3]) := by decide

theorem test_keyup_word_00101_clears_line_5_only :
    leaves (exec (decodeKeyEvent 0b00101#5) (holding [5, 6])) (fun t => t.block.keys) = some (held [6]) := by decide

theorem test_sample_w_d_z :
    leaves (exec .sample (holding [7, 10, 12])) (fun t => (t.block.p1Mask, t.block.p2Mask, t.block.phase)) =
      some (0b000000#6, 0b011001#6, 0b0010#4) := by decide

theorem test_sample_up_left_mod_and_a :
    leaves (exec .sample (holding [0, 2, 4, 8])) (fun t => (t.block.p1Mask, t.block.p2Mask)) =
      some (0b010101#6, 0b000100#6) := by decide

theorem test_physical_keys_to_codes :
    keyCodeOf { defaultConfig with keyRightMod := .rightControl } .rightControl = 4#4 ∧
    keyCodeOf { defaultConfig with keyRightMod := .rightControl } .rightAlt = 15#4 ∧
    keyCodeOf { defaultConfig with keyRightMod := .rightControl } .x = 14#4 := by decide

/-! ## Buffer reader (95_test_vectors.md 2.2) -/

theorem test_acquire_latches :
    leaves (exec .acquire (machineIn 3#4 15#4)) (fun t => (t.block.screenPtr, t.block.palettePtr, t.block.memSz, t.block.phase)) =
      some (1024, 77824, 131072, 0b0100#4) := by decide

theorem test_acquire_without_memory_view_halts :
    leaves (exec .acquire (machineIn 3#4 0b0111#4)) (fun t => (t.block.phase, t.trace)) =
      some (0b1111#4, [.fault 1#3 8 0]) := by decide

theorem test_xscreen_one_byte_over_halts :
    leaves (exec .xscreen (latched 4#4 54273 0 131072)) (fun t => (t.block.phase, t.trace)) =
      some (0b1111#4, [.fault 2#3 54273 131072]) := by decide

theorem test_xscreen_does_not_wrap :
    leaves (exec .xscreen (latched 4#4 4294967295 0 4294967296)) (fun t => t.trace) =
      some [.fault 2#3 4294967295 4294967296] := by decide

theorem test_xpal_one_byte_over_halts :
    leaves (exec .xpal (latched 5#4 0 131009 131072)) (fun t => (t.block.phase, t.trace)) =
      some (0b1111#4, [.fault 3#3 131009 131072]) := by decide

theorem test_xpal_exact_fit_copies :
    leaves (exec .xpal (latched 5#4 0 131008 131072)) (fun t => (t.block.phase, t.trace)) = some (0b0110#4, []) := by decide

/-- The parameters of R8 are the configuration's: with 17-bit pointers a region that ends at offset 2^17 fits, a pointer and a
size are latched at their 17 and 18 bits, and with 7 lines a code above 6 sets none. -/
theorem test_other_parameters :
    leaves (exec .acquire { machineIn 3#4 15#4 with
        config := { defaultConfig with ptrWidth := 17 }
        moduleNow := { someModule with screenPtr := 131073, palettePtr := 131071 } })
      (fun t => (t.block.screenPtr, t.block.palettePtr, t.block.memSz)) = some (1, 131071, 131072) ∧
    leaves (exec .xscreen { latched 4#4 54272 131008 131072 with config := { defaultConfig with ptrWidth := 17 } })
      (fun t => t.block.phase) = some 5#4 ∧
    leaves (exec (.keydown 9#4) { machineIn 9#4 15#4 with block := { someBlock 9#4 15#4 with keys := List.replicate 7 false } })
      (fun t => t.block.keys) = some (List.replicate 7 false) := by decide

theorem test_memRead_ascending :
    memRead { someModule with mem := [(1024, 20#8), (1025, 21#8)], size := 1027 } 1024 3 = some #v[20#8, 21#8, 0#8] ∧
    memRead { someModule with mem := [(1024, 20#8), (1025, 21#8)], size := 1027 } 1025 3 = none := by decide

theorem test_memory_write_keeps_the_form :
    Memory.write [(3, 1#8), (9, 2#8)] 5 7#8 = [(3, 1#8), (5, 7#8), (9, 2#8)] ∧
    Memory.write [(3, 1#8), (9, 2#8)] 9 0#8 = [(3, 1#8)] := by decide

/-! ## Colour decoder (95_test_vectors.md S3, S7, 2.3) -/

/-- S3 and S7: red and blue, whatever `GREEN` is. -/
theorem test_decodeEntry_red_and_blue (green : GreenTable) :
    (decodeEntry green 0x0F#8 0x0F#8).r = 0xF0#8 ∧ (decodeEntry green 0x0F#8 0x0F#8).b = 0xF0#8 ∧
    (decodeEntry green 0xFF#8 0x00#8).r = 0xF0#8 ∧ (decodeEntry green 0xFF#8 0x00#8).b = 0x00#8 := ⟨rfl, rfl, rfl, rfl⟩

/-- The last entry and the one before it: red, blue and the phase, which rest on no value of `GREEN`. -/
theorem test_decode_last_entry_red_and_blue :
    leaves (exec .decode { machineIn 6#4 15#4 with block :=
      { someBlock 6#4 15#4 with pal := ((Vector.replicate Config.palBytes 0#8).set 62 0xA5#8).set 63 0x3C#8 } })
      (fun t => (t.block.ct[31].r, t.block.ct[31].b, t.block.ct[30].r, t.block.phase)) =
      some (0x50#8, 0xC0#8, 0#8, 0b0111#4) := by decide

/-- DEPENDS ON GREEN (R162, D14; log 9): the green of `b1` under the default `GREEN(b1) = b1 & 0xF0`. -/
theorem test_depends_on_GREEN_default_green :
    greenOf defaultGreen 0x3C#8 = 0x30#8 ∧ greenOf defaultGreen 0x0F#8 = 0x00#8 ∧
    (decodeEntry defaultConfig.green 0xA5#8 0x3C#8).g = 0x30#8 := by decide

/-! ## Compositor (95_test_vectors.md 2.4), on short lists of pixels -/

theorem test_fillAlpha : fillAlpha [1#8, 2#8, 3#8, 4#8, 5#8, 6#8, 7#8, 8#8] = [1#8, 2#8, 3#8, 255#8, 5#8, 6#8, 7#8, 255#8] := by
  decide

theorem test_paint_stops_at_index_32 :
    paint ((Vector.replicate Config.nPal default).set 31 ⟨0x20#8, 0x30#8, 0x40#8⟩) [31#8, 32#8, 31#8]
      [0xAA#8, 0xBB#8, 0xCC#8, 0xFF#8, 1#8, 2#8, 3#8, 0xFF#8, 4#8, 5#8, 6#8, 0xFF#8] =
      [0x20#8, 0x30#8, 0x40#8, 0xFF#8, 1#8, 2#8, 3#8, 0xFF#8, 4#8, 5#8, 6#8, 0xFF#8] := by decide

theorem test_lowest_invalid_index :
    firstOutOfRange 0 [0#8, 31#8, 0#8, 0#8, 0#8, 32#8, 0#8, 0#8, 0#8, 200#8] = some (5, 32#8) ∧
    firstOutOfRange 100 [0x3F#8] = some (100, 63#8) ∧ firstOutOfRange 0 [31#8] = none := by decide

/-! ## Sequencer and reset (95_test_vectors.md 2.5, 2.6) -/

theorem test_start_without_pointer_queries :
    leaves (exec (.start 0b1001#4) (machineIn 0#4 0#4)) (fun t => (t.block.startErr, t.block.cap, t.block.phase, t.trace)) =
      some (0b0110#4, 0#4, 0#4, [.startStatus false]) := by decide

theorem test_start_with_all_capabilities :
    leaves (exec (.start 0b1111#4) (machineIn 0#4 0#4)) (fun t => (t.block.startErr, t.block.cap, t.block.phase, t.trace)) =
      some (0#4, 0b1111#4, 0b1001#4, [.startStatus true]) := by decide

theorem test_start_is_ignored_in_halt :
    leaves (exec (.start 0b1111#4) (machineIn 15#4 15#4)) (fun t => (t.block.phase, t.trace)) = some (15#4, []) := by decide

theorem test_tick_in_wait_and_lost_in_composite :
    leaves (exec .tick (machineIn 9#4 15#4)) (fun t => t.block.phase) = some 0b0001#4 ∧
    leaves (exec .tick (machineIn 7#4 15#4)) (fun t => t.block.phase) = some 0b0111#4 := by decide

theorem test_step_hands_over_1_and_25 :
    leaves (exec .step (returning 2#4 15#4)) (fun t => (t.block.phase, t.trace, t.stepReturns)) =
      some (0b0011#4, [.stepReq 1 25], []) := by decide

theorem test_step_without_step_operation_halts :
    leaves (exec .step (returning 2#4 0b1110#4)) (fun t => (t.block.phase, t.trace, t.stepReturns)) =
      some (0b1111#4, [.fault 1#3 1 0], [someModule]) := by decide

theorem test_present_then_wait :
    leaves (exec .present (machineIn 8#4 15#4)) (fun t => (t.block.phase, t.trace.length)) = some (0b1001#4, 1) := by decide

theorem test_init_then_idle : leaves (exec .init (machineIn 14#4 0#4)) (fun t => t.block.phase) = some 0b0000#4 := by decide

theorem test_reset_from_halt :
    leaves (exec .reset { machineIn 15#4 15#4 with block := { someBlock 15#4 15#4 with
      keys := held [5], faultCause := 2#3, faultInfo0 := 54273, faultInfo1 := 131072 } })
      (fun t => (t.block.phase, t.block.cap, t.block.faultCause, t.block.faultInfo0, t.block.keys)) =
      some (0b1110#4, 0#4, 0#3, 0, held []) := by decide

theorem test_state_of_phase :
    seqStateOf 14#4 = some .idle ∧ seqStateOf 9#4 = some .running ∧ seqStateOf 15#4 = some .halted ∧ seqStateOf 12#4 = none := by
  decide

/-! ## Witnesses: for each statement with hypotheses, a state and operands that meet them -/

/-- The screen of zeros has valid indices only. -/
theorem zeros_valid (i : Nat) (x : Byte) (h : (Vector.replicate Config.nPix 0#8)[i]? = some x) : x.toNat ≤ 31 := by
  rw [Vector.getElem?_replicate] at h
  split at h
  · cases h; decide
  · cases h

theorem full_alpha : AlphaFull (Vector.replicate Config.pixBytes 255#8) := by
  intro i hi
  rw [Vector.getElem?_replicate, if_pos (by simp only [Config.pixBytes, Config.nPix] at *; omega)]

/-- A screen with one byte above 31. -/
def badScreen (i : Fin 76800) : State :=
  { machineIn 7#4 15#4 with block :=
    { someBlock 7#4 15#4 with scr := (Vector.replicate Config.nPix 0#8).set i.val 32#8 i.isLt } }

theorem badScreen_at (i : Fin 76800) : (badScreen i).block.scr[i.val]? = some 32#8 := by
  simp [badScreen]

theorem badScreen_before (i : Fin 76800) (j : Nat) (y : Byte) (hj : j < i.val) (h : (badScreen i).block.scr[j]? = some y) :
    y.toNat ≤ 31 := by
  simp only [badScreen, Vector.getElem?_set, if_neg (Nat.ne_of_gt hj)] at h
  exact zeros_valid j y h

/-- The invariant in WAIT, started. -/
theorem inv_waiting : Inv (machineIn 9#4 15#4) where
  phaseLegal := by decide
  memCanonical := by decide
  moduleSizeBound := by decide
  keyLines := rfl
  ptrWidths := by decide
  memSzBound := by decide
  faultInfoWidths := by decide
  alpha _ := full_alpha
  faultIffHalt := by decide
  faultKnown := .inl rfl
  faultInfoZero _ := ⟨rfl, rfl⟩
  capBefore h := absurd h (by unfold NotStarted; decide)
  capAfter _ := rfl
  startErrAfter _ := rfl
  viewCurrent h := absurd h (by decide)

/-- The invariant in INIT. -/
theorem inv_initial : Inv (machineIn 14#4 0#4) where
  phaseLegal := by decide
  memCanonical := by decide
  moduleSizeBound := by decide
  keyLines := rfl
  ptrWidths := by decide
  memSzBound := by decide
  faultInfoWidths := by decide
  alpha _ := full_alpha
  faultIffHalt := by decide
  faultKnown := .inl rfl
  faultInfoZero _ := ⟨rfl, rfl⟩
  capBefore _ := rfl
  capAfter h := absurd (.inl rfl) h
  startErrAfter _ := rfl
  viewCurrent h := absurd h (by decide)

/-- The invariant in XSCREEN, where the latched size is the module's. -/
theorem inv_copying : Inv (machineIn 4#4 15#4) where
  phaseLegal := by decide
  memCanonical := by decide
  moduleSizeBound := by decide
  keyLines := rfl
  ptrWidths := by decide
  memSzBound := by decide
  faultInfoWidths := by decide
  alpha _ := full_alpha
  faultIffHalt := by decide
  faultKnown := .inl rfl
  faultInfoZero _ := ⟨rfl, rfl⟩
  capBefore h := absurd h (by unfold NotStarted; decide)
  capAfter _ := rfl
  startErrAfter _ := rfl
  viewCurrent _ := by decide

theorem witness_EveryWellFormedWordIsAnEncoding :
    (OpWord.hevt 2#2 15#4).wellFormed = true ∧ (OpWord.hevt 3#2 0#4).wellFormed = true ∧
    (OpWord.kevt 31#5).wellFormed = true ∧ (OpWord.phase 9#4).wellFormed = true ∧ (OpWord.phase 14#4).wellFormed = true := by
  decide

theorem witness_OpcodeTableSelectsTheDecodedRow :
    decode (.kevt 31#5) = .ok (.keydown 15#4) ∧ decode (.phase 10#4) = .error (.reservedPhase 10#4) := ⟨rfl, rfl⟩

theorem witness_ReservedPhaseCodesAreRefusedAndNeverWritten :
    ((machineIn 10#4 0#4).turns = [] ∧ 10 ≤ (machineIn 10#4 0#4).block.phase.toNat ∧
      (machineIn 13#4 0#4).block.phase.toNat ≤ 13) ∧
    (∃ t, exec .tick (machineIn 13#4 0#4) = .next t ∧ 10 ≤ t.block.phase.toNat ∧ t.block.phase.toNat ≤ 13) :=
  ⟨by decide, _, rfl, by decide, by decide⟩

theorem witness_StepRunsTheDecodedOperation :
    ((machineIn 15#4 0#4).turns = [] ∧ decode (.phase (machineIn 15#4 0#4).block.phase) = .ok .halt) ∧
    ({ machineIn 0#4 0#4 with turns := [.seq] }.turns = [.seq] ∧ decode (.phase 0#4) = .ok .idle) ∧
    decode (.hevt 2#2 15#4) = .ok (.start 15#4) ∧ decode (.kevt 0#5) = .ok (.keyup 0#4) ∧
    { machineIn 0#4 0#4 with turns := [.host 0#2 3#4] }.turns = [.host 0#2 3#4] :=
  ⟨⟨rfl, rfl⟩, ⟨rfl, rfl⟩, rfl, rfl, rfl⟩

theorem witness_PlacedWordIsRunNext :
    decodeTableWord 8 15 = some .halt ∧ decodeTableWord 8 16 = some (.keydown 0#4) ∧ decodeTableWord 8 10 = some (.keyup 10#4) ∧
    decodeTableWord 2 3 = some .reset ∧ decodeTableWord 4 9 = some .wait ∧ decodeTableWord 5 31 = some (.keydown 15#4) :=
  ⟨rfl, rfl, rfl, rfl, rfl, rfl⟩

theorem witness_KeydownSetsExactlyItsLine :
    14#4 ≠ 15#4 ∧ (14#4).toNat < (machineIn 0#4 0#4).block.keys.length ∧ (machineIn 0#4 0#4).config.binding.p2[5]? = some [13#4, 14#4] ∧ 14#4 ∈ [13#4, 14#4] ∧
    (machineIn 0#4 0#4).config.binding.p1[0]? = some [0#4] := by decide

theorem witness_SampleOrsTheBoundLinesIntoTheMasks :
    (machineIn 1#4 15#4).config.binding.p1[5]? = some [5#4, 6#4] ∧ (machineIn 1#4 15#4).config.binding.p2[0]? = some [7#4] := by
  decide

theorem witness_KeyLinesHoldTheLastEventOfTheirCode :
    { machineIn 9#4 15#4 with turns := [.key 0b10101#5, .key 0b00101#5] }.turns = [0b10101#5, 0b00101#5].map Turn.key := rfl

/-- For `DefaultBindingGivesTheMasksOfTheTable` and `EveryPairOfMasksCanBeSampled`. -/
theorem witness_DefaultBinding :
    (holding [14]).config.binding = defaultBinding ∧ (holding [14]).config.nKeys = 15 ∧
    (holding [14]).block.keys[14]? = some true ∧ (holding [14]).block.keys[13]? = some false := by decide

theorem witness_PlayersMasksAreIndependent :
    (holding [0, 7]).config.binding = defaultBinding ∧
    ∃ t₁ t₂ t₃, exec .sample (holding [0, 7]) = .next t₁ ∧ exec .sample (holding [0, 14]) = .next t₂ ∧
      exec .sample (holding [6, 14]) = .next t₃ ∧
      (∀ k, k < 7 → (holding [0, 7]).block.keys[k]? = (holding [0, 14]).block.keys[k]?) ∧
      (∀ k, 7 ≤ k → k < 15 → (holding [0, 14]).block.keys[k]? = (holding [6, 14]).block.keys[k]?) := by
  refine ⟨rfl, _, _, _, rfl, rfl, rfl, by decide, ?_⟩
  have h : ∀ k, k < 15 → 7 ≤ k → (holding [0, 14]).block.keys[k]? = (holding [6, 14]).block.keys[k]? := by decide
  exact fun k h7 hk => h k hk h7

theorem witness_AcquireLatchesTheModulesAnswers :
    ((machineIn 3#4 0b1110#4).block.cap.getLsbD 1 = true ∧ (machineIn 3#4 0b1110#4).block.cap.getLsbD 2 = true ∧
      (machineIn 3#4 0b1110#4).block.cap.getLsbD 3 = true) ∧
    (machineIn 3#4 0b1110#4).queryReturns = [] ∧
    { machineIn 3#4 0b1110#4 with queryReturns := [someModule, noModule] }.queryReturns = [someModule, noModule] :=
  ⟨⟨rfl, rfl, rfl⟩, rfl, rfl⟩

theorem witness_MissingCapabilityHalts :
    (machineIn 2#4 0b1110#4).block.cap.getLsbD 0 = false ∧ (machineIn 3#4 0b1101#4).block.cap.getLsbD 1 = false ∧
    (machineIn 3#4 0b1011#4).block.cap.getLsbD 2 = false ∧ (machineIn 3#4 0b0111#4).block.cap.getLsbD 3 = false :=
  ⟨rfl, rfl, rfl, rfl⟩

/-- For `XscreenCopiesTheScreenRegion` and `XpalCopiesThePaletteRegion`: the exact fit of 95_test_vectors.md 2.2 at the end of a
memory of 131072 bytes. -/
theorem witness_CopiesOfRegionsThatFit :
    (machineIn 4#4 15#4).block.screenPtr + 76800 = (machineIn 4#4 15#4).block.memSz ∧
    (machineIn 4#4 15#4).block.screenPtr + 76800 = (machineIn 4#4 15#4).moduleNow.size ∧
    (machineIn 4#4 15#4).block.palettePtr + 64 = (machineIn 4#4 15#4).block.memSz ∧
    (machineIn 4#4 15#4).block.palettePtr + 64 = (machineIn 4#4 15#4).moduleNow.size := by decide

/-- One byte over, and the pointer at which a sum of 32 bits would wrap. -/
theorem witness_OutOfBoundsRegionHalts :
    131072 < (latched 4#4 54273 131009 131072).block.screenPtr + 76800 ∧
    131072 < (latched 4#4 54273 131009 131072).block.palettePtr + 64 ∧
    (latched 4#4 4294967295 4294967295 4294967296).block.memSz <
      (latched 4#4 4294967295 4294967295 4294967296).block.palettePtr + 64 := by decide

/-- A size larger than the module's memory by one byte. -/
theorem witness_CopyOutsideTheModulesMemoryStops :
    (latched 4#4 54273 131009 131073).block.screenPtr + 76800 = (latched 4#4 54273 131009 131073).block.memSz ∧
    (latched 4#4 54273 131009 131073).moduleNow.size < (latched 4#4 54273 131009 131073).block.screenPtr + 76800 ∧
    (latched 4#4 54273 131009 131073).block.palettePtr + 64 = (latched 4#4 54273 131009 131073).block.memSz ∧
    (latched 4#4 54273 131009 131073).moduleNow.size < (latched 4#4 54273 131009 131073).block.palettePtr + 64 := by
  decide

theorem witness_CopiesAreASnapshotOfOneMemory :
    ∃ t u, exec .xscreen (machineIn 4#4 15#4) = .next t ∧ t.block.phase = 5#4 ∧
      exec .xpal t = .next u ∧ u.block.phase = 6#4 ∧ ∃ v, exec .decode u = .next v := by
  have h : exec .xscreen (machineIn 4#4 15#4) = .next { machineIn 4#4 15#4 with block :=
      { someBlock 4#4 15#4 with scr := tabulate Config.nPix fun j => Memory.read someModule.mem (54272 + j), phase := 5#4 } } := by
    simp only [exec, execXscreen]
    rw [if_pos (by decide), memRead_inside _ _ _ (by decide)]
    rfl
  have h2 : ∃ u, exec .xpal { machineIn 4#4 15#4 with block :=
      { someBlock 4#4 15#4 with
        scr := tabulate Config.nPix fun j => Memory.read someModule.mem (54272 + j), phase := 5#4 } } = .next u ∧
      u.block.phase = 6#4 := by
    simp only [exec, execXpal]
    rw [if_pos (by decide), memRead_inside _ _ _ (by decide)]
    exact ⟨_, rfl, rfl⟩
  obtain ⟨u, hu, hp⟩ := h2
  exact ⟨_, u, h, rfl, hu, hp, _, rfl⟩

theorem witness_OnlyTheModuleChangesItsMemory :
    (∃ t, exec .step (returning 2#4 15#4) = .next t ∧ t.moduleNow ≠ noModule) ∧
    (∃ t, exec .acquire { machineIn 3#4 15#4 with queryReturns := [noModule] } = .next t ∧ t.moduleNow ≠ someModule) ∧
    ∃ t, exec .present (machineIn 8#4 15#4) = .next t :=
  ⟨⟨_, rfl, by decide⟩, ⟨_, rfl, by decide⟩, _, rfl⟩

/-- The first and the last palette entry. -/
theorem witness_DecodeExpandsEveryPaletteEntry :
    (machineIn 6#4 15#4).block.pal[2 * 0]? = some 0#8 ∧ (machineIn 6#4 15#4).block.pal[2 * 0 + 1]? = some 0#8 ∧
    (machineIn 6#4 15#4).block.pal[2 * 31]? = some 0#8 ∧ (machineIn 6#4 15#4).block.pal[2 * 31 + 1]? = some 0#8 := by decide

theorem witness_DecodeIsPureAndEntryByEntry :
    ∃ t₁ t₂, exec .decode (machineIn 6#4 15#4) = .next t₁ ∧ exec .decode (machineIn 7#4 15#4) = .next t₂ ∧
      (machineIn 6#4 15#4).config.green = (machineIn 7#4 15#4).config.green ∧
      (machineIn 6#4 15#4).block.pal = (machineIn 7#4 15#4).block.pal := ⟨_, _, rfl, rfl, rfl, rfl⟩

/-- DEPENDS ON GREEN (R162, D14; log 9): the configuration has the default `GREEN`. -/
theorem witness_DefaultColoursAreHighNibbles_depends_on_GREEN :
    ∃ t, exec .decode (machineIn 6#4 15#4) = .next t ∧ (machineIn 6#4 15#4).config.green = defaultGreen ∧
      (∃ c, t.block.ct[31]? = some c) ∧ (machineIn 6#4 15#4).block.pal[2 * 31 + 1]? = some 0#8 :=
  ⟨_, rfl, rfl, ⟨_, decodePalette_getElem? _ _ 31 (by decide)⟩, by decide⟩

theorem witness_CompositeMapsEveryPixelThroughTheTable :
    (∀ (i : Nat) (x : Byte), (machineIn 7#4 15#4).block.scr[i]? = some x → x.toNat ≤ 31) ∧
    (machineIn 7#4 15#4).block.scr[76799]? = some 0#8 ∧ (machineIn 7#4 15#4).block.ct[0]? = some default :=
  ⟨zeros_valid, Vector.getElem?_replicate.trans (if_pos (by decide)), Vector.getElem?_replicate.trans (if_pos (by decide))⟩

/-- An invalid index at the first pixel and at the last. -/
theorem witness_CompositeHaltsAtTheLowestInvalidIndex :
    ∀ i : Fin 76800, (i.val = 0 ∨ i.val = 76799) → (badScreen i).block.scr[i.val]? = some 32#8 ∧ 31 < (32#8).toNat ∧
      ∀ (j : Nat) (y : Byte), j < i.val → (badScreen i).block.scr[j]? = some y → y.toNat ≤ 31 :=
  fun i _ => ⟨badScreen_at i, by decide, badScreen_before i⟩

theorem witness_PixelsShowTheDecodedPalette :
    ∃ t u, exec .decode (machineIn 6#4 15#4) = .next t ∧ exec .composite t = .next u ∧ u.block.phase = 8#4 ∧
      AlphaFull (machineIn 6#4 15#4).block.pix ∧ (machineIn 6#4 15#4).block.scr[76799]? = some 0#8 ∧
      (machineIn 6#4 15#4).block.pal[2 * (0#8).toNat + 1]? = some 0#8 :=
  have h := execComposite_valid
    (State.setBlock (machineIn 6#4 15#4) ((Block.setCt (someBlock 6#4 15#4)
      (decodePalette defaultGreen (Vector.replicate Config.palBytes 0#8))).setPhase Phase.composite)) zeros_valid
  ⟨_, _, rfl, h, rfl, full_alpha, Vector.getElem?_replicate.trans (if_pos (by decide)), by decide⟩

theorem witness_StartIsAcceptedInIdleOnly :
    (machineIn 0#4 0#4).block.phase = 0#4 ∧ 0b0111#4 ≠ 0b1111#4 ∧ (machineIn 9#4 15#4).block.phase ≠ 0#4 := by decide

theorem witness_TickIsAcceptedInWaitOnly :
    (machineIn 9#4 15#4).block.phase = 9#4 ∧ (machineIn 8#4 15#4).block.phase ≠ 9#4 := by decide

theorem witness_StepHandsBothMasksToTheModule :
    (returning 2#4 15#4).block.cap.getLsbD 0 = true ∧ (returning 2#4 15#4).stepReturns = [someModule] := ⟨rfl, rfl⟩

theorem witness_StepThatNeverReturnsHangs :
    let s := { machineIn 2#4 15#4 with turns := [.seq, .host 1#2 0#4, .key 16#5] }
    s.block.phase = 2#4 ∧ s.block.cap.getLsbD 0 = true ∧ s.stepReturns = [] ∧ ∀ turn ∈ s.turns, turn.isReset = false := by
  decide

theorem witness_ResetThenInitIsTheEntryState :
    { machineIn 15#4 15#4 with turns := [.host 3#2 0#4, .seq, .host 2#2 15#4] }.turns =
      .host 3#2 0#4 :: .seq :: [.host 2#2 15#4] := rfl

theorem witness_PhaseMovesAlongTheGraphOnly : ∃ t, step (machineIn 1#4 15#4) = .next t ∧ t.block.phase = 2#4 := ⟨_, rfl, rfl⟩

theorem witness_StartedSessionNeverReturnsToIdle :
    ¬ NotStarted (machineIn 1#4 15#4).block.phase ∧ (∀ turn ∈ (machineIn 1#4 15#4).turns, turn.isReset = false) ∧
    ∃ t, Host.Core.run Sys2Proof.core 1 (machineIn 1#4 15#4) = .next t :=
  ⟨by unfold NotStarted; decide, by decide, _, run_succ 0 _ _ rfl⟩

theorem witness_HaltAndItsCauseLastUntilReset :
    let s := { machineIn 15#4 15#4 with turns := [.host 2#2 15#4, .host 1#2 0#4, .seq, .key 16#5] }
    s.block.phase = 15#4 ∧ (∀ turn ∈ s.turns, turn.isReset = false) ∧
    { s with turns := [.host 3#2 0#4, .seq, .host 2#2 15#4, .host 1#2 0#4] }.turns =
      .host 3#2 0#4 :: .seq :: .host 2#2 0b1111#4 :: [.host 1#2 0#4] := by decide

/-- For `EveryStepKeepsTheInvariant` and `NoRunFromTheInvariantStops`. -/
theorem witness_EveryStepKeepsTheInvariant :
    (Inv (machineIn 9#4 15#4) ∧ ∃ t, step (machineIn 9#4 15#4) = .next t) ∧ Inv (machineIn 4#4 15#4) :=
  ⟨⟨inv_waiting, _, rfl⟩, inv_copying⟩

/-- A machine in STEP of its first frame, the module's return there, the successful start its only output. -/
def inFirstFrame : State := { returning 2#4 15#4 with trace := [.startStatus true] }

theorem witness_EveryStepKeepsTheTraceInOrder :
    Inv inFirstFrame ∧ TraceInv inFirstFrame ∧ ∃ t, step inFirstFrame = .next t ∧
      t.trace = [.startStatus true, .stepReq 1 25] := by
  refine ⟨?_, ⟨⟨trivial, trivial⟩, fun _ => .inl rfl, fun h => absurd h (by decide)⟩, _, rfl, rfl⟩
  exact
    { inv_waiting with
      phaseLegal := by decide
      alpha := fun _ => full_alpha
      faultIffHalt := by decide
      capBefore := fun h => absurd h (by unfold NotStarted; decide)
      capAfter := fun _ => rfl
      startErrAfter := fun _ => rfl
      viewCurrent := fun h => absurd h (by decide) }

theorem witness_ResetMeetsTheInvariant :
    Memory.wf (machineIn 15#4 15#4).moduleNow.mem ∧
    (machineIn 15#4 15#4).moduleNow.size ≤ 2 ^ (machineIn 15#4 15#4).config.ptrWidth ∧ ∃ t, exec .reset (machineIn 15#4 15#4) = .next t :=
  ⟨by decide, by decide, _, rfl⟩

/-- For `EveryPresentedFrameIsOpaque` and `TraceIsASequenceOfFrames`. -/
theorem witness_RunsFromInit :
    (machineIn 14#4 0#4).block.phase = Phase.init ∧ Inv (machineIn 14#4 0#4) ∧ (machineIn 14#4 0#4).trace = [] ∧
    ∃ t, Host.Core.run Sys2Proof.core 1 (machineIn 14#4 0#4) = .next t ∧ t.block.phase ≠ Phase.init :=
  ⟨rfl, inv_initial, rfl, _, run_succ 0 _ _ rfl, by decide⟩

theorem witness_OtherOperationsNeverFault :
    Instr.start 15#4 ≠ .step ∧ Instr.start 15#4 ≠ .acquire ∧ Instr.start 15#4 ≠ .xscreen ∧ Instr.start 15#4 ≠ .xpal ∧
    Instr.start 15#4 ≠ .composite := by decide

theorem witness_OnlyTheMarkedOperationsWriteAnElement :
    ∃ t, exec (.keydown 3#4) (holding []) = .next t ∧ Instr.keydown 3#4 ≠ .reset ∧ t.block.keys ≠ held [] :=
  ⟨_, rfl, by decide, by decide⟩

theorem witness_OutputsComeFromTheirOperationsOnly :
    (∃ t, exec .present (machineIn 8#4 15#4) = .next t ∧ t.trace ≠ []) ∧
    ∃ t, exec .step (returning 2#4 0#4) = .next t ∧ t.trace = [.fault 1#3 15 0] :=
  ⟨⟨_, rfl, List.cons_ne_nil _ _⟩, _, rfl, rfl⟩

/-- Another content of everything the phase does not read. -/
def otherContent (p : BitVec 4) : State :=
  { machineIn p 0#4 with block :=
    { someBlock p 0#4 with
      p1Mask := 63#6, screenPtr := 5, memSz := 9, scr := Vector.replicate _ 77#8, pix := Vector.replicate _ 255#8 } }

theorem witness_OnlyLiveElementsDetermineTheNextStep :
    SameLive (machineIn 0#4 0#4) (otherContent 0#4) ∧ machineIn 0#4 0#4 ≠ otherContent 0#4 ∧
    ∃ t, step (machineIn 0#4 0#4) = .next t := by
  refine ⟨⟨rfl, rfl, rfl, rfl, rfl, rfl, rfl, rfl, rfl, rfl, rfl, rfl, rfl, ?_, ?_, ?_, ?_, ?_, ?_, ?_, ?_⟩, ?_, _, rfl⟩
  case refine_7 => exact fun _ _ _ => rfl
  case refine_9 => exact fun h => absurd (congrArg (fun s => s.block.p1Mask) h) (by decide)
  all_goals exact fun h => absurd h (by decide)

theorem witness_ResetContentNeverReachesAnOutput :
    (machineIn 14#4 0#4).block.phase = Phase.init ∧ SameButUnspecified (machineIn 14#4 0#4) (otherContent 14#4) ∧
    ∃ t, Host.Core.run Sys2Proof.core 1 (machineIn 14#4 0#4) = .next t :=
  ⟨rfl, ⟨rfl, rfl, rfl, rfl, rfl, rfl, rfl, rfl, rfl, rfl, rfl, rfl, rfl⟩, _, run_succ 0 _ _ rfl⟩

/-- Both forms of the queries: an ACQUIRE that changes nothing, and one that leaves a module of another size. -/
theorem witness_AFrameRunsFromTickToPresent :
    let s := { returning 9#4 15#4 with turns := .host 1#2 0#4 :: (List.replicate 8 Turn.seq ++ [Turn.key 16#5]) }
    let q := { someModule with size := 77888 }
    s.block.phase = Phase.wait ∧ s.block.cap = 0b1111#4 ∧ AlphaFull s.block.pix ∧
    s.turns = .host 1#2 0#4 :: (List.replicate 8 Turn.seq ++ [Turn.key 16#5]) ∧ s.stepReturns = [someModule] ∧
    s.queryReturns = [] ∧ { s with queryReturns := [q] }.queryReturns = q :: [] ∧
    (∀ m ∈ [someModule, q], m.size ≤ 2 ^ s.config.ptrWidth ∧ m.screenPtr + 76800 ≤ m.size ∧ m.palettePtr + 64 ≤ m.size) ∧
    ∀ m ∈ [someModule, q], ∀ j, j < 76800 → (Memory.read m.mem (m.screenPtr + j)).toNat ≤ 31 := by
  refine ⟨rfl, rfl, full_alpha, rfl, rfl, rfl, rfl, by decide, fun m hm j hj => ?_⟩
  have hz : Memory.read someModule.mem (1024 + j) = 0#8 := if_neg (by simp only; omega)
  rcases List.mem_pair.mp hm with rfl | rfl <;> exact hz ▸ by decide

theorem witness_KeyEventsCommuteWithTheFrame :
    (Instr.composite ≠ .sample ∧ Instr.composite ≠ .reset) ∧
    (∀ key, Instr.composite ≠ .keydown key ∧ Instr.composite ≠ .keyup key) ∧
    (∃ t, exec (decodeKeyEvent 16#5) (machineIn 7#4 15#4) = .next t) ∧ ∃ u, exec .composite (machineIn 7#4 15#4) = .next u :=
  ⟨by decide, by decide, ⟨_, rfl⟩, _, rfl⟩

/-- Both clauses: both regions one byte over, and only the palette's. -/
theorem witness_FirstFaultInPhaseOrderIsReported :
    (latched 4#4 54273 131009 131072).block.phase = Phase.xscreen ∧ (latched 4#4 54273 131009 131072).turns = [] ∧
    (latched 4#4 54273 131009 131072).block.memSz = someModule.size ∧
    (latched 4#4 54273 131009 131072).block.memSz < (latched 4#4 54273 131009 131072).block.palettePtr + 64 ∧
    (latched 4#4 54273 131009 131072).block.memSz < (latched 4#4 54273 131009 131072).block.screenPtr + 76800 ∧
    (latched 4#4 54272 131009 131072).block.screenPtr + 76800 ≤ (latched 4#4 54272 131009 131072).block.memSz := by
  decide

end Sys2Proof.Tests
end

section
/-! Proofs for 20_memory.md: the two copies as snapshots of one state of the module's memory (R69, R71). -/

namespace Sys2Proof.Machine

/-! ## What a completed copy has done -/

/-- An XSCREEN that goes on to XPAL has copied what `MemRead` answers, and nothing else is changed (R142). -/
theorem execXscreen_completed {s t : State} (h : execXscreen s = .next t) (hp : t.block.phase = Phase.xpal) :
    ∃ bytes, memRead s.moduleNow s.block.screenPtr Config.nPix = some bytes ∧
      t = { s with block := { s.block with scr := bytes, phase := Phase.xpal } } := by
  rcases execXscreen_cases h with ⟨_, rfl⟩ | ⟨bytes, _, hb, ht⟩
  · exact absurd hp (by decide : Phase.halt ≠ Phase.xpal)
  · exact ⟨bytes, hb, ht⟩

/-- An XPAL that goes on to DECODE has copied what `MemRead` answers, and nothing else is changed (R144). -/
theorem execXpal_completed {s t : State} (h : execXpal s = .next t) (hp : t.block.phase = Phase.decode) :
    ∃ bytes, memRead s.moduleNow s.block.palettePtr Config.palBytes = some bytes ∧
      t = { s with block := { s.block with pal := bytes, phase := Phase.decode } } := by
  rcases execXpal_cases h with ⟨_, rfl⟩ | ⟨bytes, _, hb, ht⟩
  · exact absurd hp (by decide : Phase.halt ≠ Phase.decode)
  · exact ⟨bytes, hb, ht⟩

/-! ## Who writes the copies -/

/-- RESET apart, XSCREEN alone writes `SCR` and XPAL alone writes `PAL` (R71). -/
theorem exec_keeps_copies {i : Instr} {s t : State} (h : exec i s = .next t) (hr : i ≠ .reset) :
    (i ≠ .xscreen → t.block.scr = s.block.scr) ∧ (i ≠ .xpal → t.block.pal = s.block.pal) := by
  cases i with
  | reset => exact absurd rfl hr
  | xscreen =>
    have hpal : t.block.pal = s.block.pal := by
      rcases execXscreen_cases h with ⟨_, rfl⟩ | ⟨_, _, _, rfl⟩ <;> rfl
    exact ⟨fun hx => absurd rfl hx, fun _ => hpal⟩
  | xpal =>
    have hscr : t.block.scr = s.block.scr := by
      rcases execXpal_cases h with ⟨_, rfl⟩ | ⟨_, _, _, rfl⟩ <;> rfl
    exact ⟨fun _ => hscr, fun hx => absurd rfl hx⟩
  | start cap =>
    rcases execStart_cases h with ⟨_, _, rfl⟩ | ⟨_, _, rfl⟩ | ⟨_, rfl⟩ <;> exact ⟨fun _ => rfl, fun _ => rfl⟩
  | tick => rcases execTick_cases h with ⟨_, rfl⟩ | ⟨_, rfl⟩ <;> exact ⟨fun _ => rfl, fun _ => rfl⟩
  | step =>
    rcases execStep_cases h with ⟨_, rfl⟩ | ⟨_, _, rfl⟩ | ⟨_, _, _, _, rfl⟩ <;> exact ⟨fun _ => rfl, fun _ => rfl⟩
  | acquire => rcases execAcquire_cases h with ⟨_, rfl⟩ | ⟨_, _, _, _, rfl⟩ <;> exact ⟨fun _ => rfl, fun _ => rfl⟩
  | composite =>
    rcases execComposite_cases h with ⟨_, rfl⟩ | ⟨_, _, _, _, _, rfl⟩ <;> exact ⟨fun _ => rfl, fun _ => rfl⟩
  | _ => cases h; exact ⟨fun _ => rfl, fun _ => rfl⟩

/-! ## Operations that do not see the module -/

/-- DECODE does the same beside any module (R71). -/
theorem execDecode_otherModule {s t : State} (m : ComputeModule) (h : execDecode s = .next t) :
    execDecode { s with moduleNow := m } = .next { t with moduleNow := m } := by
  cases h; rfl

/-- COMPOSITE does the same beside any module: which of its two outcomes it has, and its `PIX`, are read off the block
(R71, R178). -/
theorem execComposite_otherModule {s t : State} (m : ComputeModule) (h : execComposite s = .next t) :
    execComposite { s with moduleNow := m } = .next { t with moduleNow := m } := by
  rcases execComposite_cases h with ⟨hvalid, rfl⟩ | ⟨i, x, hi, hx, hlow, rfl⟩
  · exact execComposite_valid { s with moduleNow := m } hvalid
  · exact execComposite_invalid { s with moduleNow := m } i x hi hx hlow

/-! ## The obligation -/

/-- XSCREEN leaves the module and the palette pointer, so both copies read one memory (R69). -/
theorem copies_read_one_memory {s t u : State} (hs : execXscreen s = .next t) (hpt : t.block.phase = Phase.xpal)
    (ht : execXpal t = .next u) (hpu : u.block.phase = Phase.decode) :
    (∀ j, j < 76800 → u.block.scr[j]? = some (Memory.read s.moduleNow.mem (s.block.screenPtr + j))) ∧
    (∀ j, j < 64 → u.block.pal[j]? = some (Memory.read s.moduleNow.mem (s.block.palettePtr + j))) := by
  obtain ⟨scr, hscr, rfl⟩ := execXscreen_completed hs hpt
  obtain ⟨pal, hpal, rfl⟩ := execXpal_completed ht hpu
  exact ⟨(memRead_some hscr).2, (memRead_some hpal).2⟩

/-- Settles O21: the bytes of both copies are those of the memory before XSCREEN, only XSCREEN, XPAL and RESET write them, and
DECODE and COMPOSITE do not see the module. -/
theorem copiesAreASnapshotOfOneMemory : Obligations.CopiesAreASnapshotOfOneMemory := by
  unfold Obligations.CopiesAreASnapshotOfOneMemory
  refine ⟨fun s t u hs hpt ht hpu => copies_read_one_memory hs hpt ht hpu,
    fun i s t h hr => exec_keeps_copies h hr, ?_⟩
  rintro i s t m (rfl | rfl) h
  · exact execDecode_otherModule m h
  · exact execComposite_otherModule m h

end Sys2Proof.Machine
end

section
/-! Proofs for 42_color_decoder.md: DECODE as a function of the palette, entry by entry (R160 to R164). -/

namespace Sys2Proof.Machine

/-! ## What DECODE does -/

/-- DECODE answers in every state: the table from `PAL` and `GREEN`, `PHASE <- COMPOSITE`, nothing else (R160). -/
theorem exec_decode_eq (s : State) :
    exec .decode s = .next { s with block := { s.block with
      ct := decodePalette s.config.green s.block.pal, phase := Phase.composite } } := rfl

/-- The table a DECODE leaves (R160). -/
theorem exec_decode_ct {s t : State} (h : exec .decode s = .next t) :
    t.block.ct = decodePalette s.config.green s.block.pal := by
  rw [exec_decode_eq] at h
  cases h; rfl

/-! ## One entry of the table -/

/-- The entry decoded from the bytes `b0` and `b1` (R160). -/
theorem decodePalette_entry (green : GreenTable) {pal : Vector Byte Config.palBytes} {n : Nat} {b0 b1 : Byte} (hn : n < 32)
    (h0 : pal[2 * n]? = some b0) (h1 : pal[2 * n + 1]? = some b1) :
    (decodePalette green pal)[n]? = some (decodeEntry green b0 b1) := by
  rw [decodePalette_getElem? green pal n hn, palB0_eq pal n b0 h0, palB1_eq pal n b1 h1]

/-- Entry `n` rests on its own two bytes: palettes that agree there give the same entry (R164). -/
theorem decodePalette_entry_congr (green : GreenTable) {pal pal' : Vector Byte Config.palBytes} {n : Nat} (hn : n < 32)
    (h0 : pal[2 * n]? = pal'[2 * n]?) (h1 : pal[2 * n + 1]? = pal'[2 * n + 1]?) :
    (decodePalette green pal)[n]? = (decodePalette green pal')[n]? := by
  have hb0 : palB0 pal n = palB0 pal' n := congrArg (·.getD 0) h0
  have hb1 : palB1 pal n = palB1 pal' n := congrArg (·.getD 0) h1
  rw [decodePalette_getElem? green pal n hn, decodePalette_getElem? green pal' n hn, hb0, hb1]

/-! ## The obligations -/

/-- Settles O23: DECODE's equation gives the frame, and each entry is `decodeEntry` of its two bytes, channel by channel. -/
theorem decodeExpandsEveryPaletteEntry : Obligations.DecodeExpandsEveryPaletteEntry := by
  unfold Obligations.DecodeExpandsEveryPaletteEntry
  intro s
  refine ⟨_, exec_decode_eq s, rfl, fun n b0 b1 hn h0 h1 => ?_⟩
  exact ⟨decodeEntry s.config.green b0 b1, decodePalette_entry s.config.green hn h0 h1,
    redOf_toNat b0, redOf_eq b0, greenOf_getElem? s.config.green b1, rfl⟩

/-- Settles O24: both tables are `decodePalette` of one `GREEN`, so equal palettes give equal tables, and equal byte pairs equal
entries. -/
theorem decodeIsPureAndEntryByEntry : Obligations.DecodeIsPureAndEntryByEntry := by
  unfold Obligations.DecodeIsPureAndEntryByEntry
  intro s₁ s₂ t₁ t₂ hgreen h₁ h₂
  rw [exec_decode_ct h₁, exec_decode_ct h₂, hgreen]
  exact ⟨fun hpal => congrArg (decodePalette s₂.config.green) hpal,
    fun n hn h0 h1 => decodePalette_entry_congr s₂.config.green hn h0 h1⟩

end Sys2Proof.Machine
end

section
/-! Proofs for 43_compositor.md: the pixels of a COMPOSITE that completes, through the table it read and through the palette the
table was decoded from (R180). -/

namespace Sys2Proof.Machine

/-! ## A COMPOSITE that completes -/

/-- A COMPOSITE that goes on to PRESENT found no byte above 31, and changed `PIX` only (R177, R178). -/
theorem execComposite_completed {s t : State} (h : execComposite s = .next t) (hp : t.block.phase = Phase.present) :
    (∀ (i : Nat) (x : Byte), s.block.scr[i]? = some x → x.toNat ≤ 31) ∧
    t = { s with block := { s.block with pix := compositePix s.block, phase := Phase.present } } := by
  rcases execComposite_cases h with hvalid | ⟨_, _, _, _, _, rfl⟩
  · exact hvalid
  · exact absurd hp (by decide : Phase.halt ≠ Phase.present)

/-- Pixel `i` of `pix` has the colour `c` and alpha 255. -/
def ShowsOpaque (pix : Vector Byte Config.pixBytes) (i : Nat) (c : Rgb) : Prop :=
  pix[4 * i]? = some c.r ∧ pix[4 * i + 1]? = some c.g ∧ pix[4 * i + 2]? = some c.b ∧ pix[4 * i + 3]? = some 255#8

/-- Every pixel of a COMPOSITE that completes shows the table entry its screen byte names, opaque where INIT's alpha bytes were
there (R180, first sentence). -/
theorem composite_shows_entry {s t : State} (h : execComposite s = .next t) (hp : t.block.phase = Phase.present)
    (ha : AlphaFull s.block.pix) {i : Nat} {n : Byte} (hi : i < 76800) (hn : s.block.scr[i]? = some n) :
    ∃ c, s.block.ct[n.toNat]? = some c ∧ ShowsOpaque t.block.pix i c := by
  obtain ⟨hvalid, rfl⟩ := execComposite_completed h hp
  obtain ⟨c, hc⟩ := buffer_getElem?_isSome s.block.ct (Nat.lt_succ_of_le (hvalid i n hn))
  obtain ⟨hr, hg, hb, halpha⟩ := compositePix_pixel s.block i n c hn hc fun j y _ hy => hvalid j y hy
  exact ⟨c, hc, hr, hg, hb, halpha.trans (ha i hi)⟩

/-! ## DECODE and then COMPOSITE -/

/-- With the table filled by DECODE, every pixel shows the entry decoded from its two palette bytes (R160, R180). -/
theorem composite_shows_decoded {s t u : State} (hdec : exec .decode s = .next t) (hcomp : execComposite t = .next u)
    (hp : u.block.phase = Phase.present) (ha : AlphaFull s.block.pix) {i : Nat} {n b0 b1 : Byte} (hi : i < 76800)
    (hn : s.block.scr[i]? = some n) (h0 : s.block.pal[2 * n.toNat]? = some b0)
    (h1 : s.block.pal[2 * n.toNat + 1]? = some b1) :
    ShowsOpaque u.block.pix i (decodeEntry s.config.green b0 b1) := by
  obtain rfl := Host.Outcome.next.inj ((exec_decode_eq s).symm.trans hdec)
  obtain ⟨c, hc, hshows⟩ := composite_shows_entry hcomp hp ha hi hn
  have hentry := decodePalette_entry s.config.green (buffer_getElem?_lt hc) h0 h1
  obtain rfl : c = decodeEntry s.config.green b0 b1 := Option.some.inj (hc.symm.trans hentry)
  exact hshows

/-! ## The obligation -/

/-- Settles O30: a COMPOSITE that completes shows each pixel's table entry, and after DECODE that entry is the decoded palette
entry, read channel by channel. -/
theorem pixelsShowTheDecodedPalette : Obligations.PixelsShowTheDecodedPalette := by
  unfold Obligations.PixelsShowTheDecodedPalette
  refine ⟨fun t u h hp ha i n hi hn => composite_shows_entry h hp ha hi hn, ?_⟩
  intro s t u hdec hcomp hp ha i n b0 b1 hi hn h0 h1
  obtain ⟨hr, hg, hb, halpha⟩ := composite_shows_decoded hdec hcomp hp ha hi hn h0 h1
  refine ⟨?red, ?green, hb, halpha⟩
  case red => exact hr.trans (congrArg some (redOf_eq b0))
  case green => exact hg.trans (greenOf_getElem? s.config.green b1).symm

end Sys2Proof.Machine
end

section
/-! Proofs for 60_exceptions.md: HALT and the recorded fault last until RESET, and after it the host may START again (R227). -/

namespace Sys2Proof.Machine

/-! ## A step, given the operation its word decodes to -/

/-- A step whose word decodes runs that operation. -/
theorem step_of_decode_ok {s : State} {i : Instr} (hd : decode s.fetch.1 = .ok i) :
    step s = exec i { s with turns := s.turns.tail } := by
  unfold step
  rw [fetch_snd, hd]

/-- A turn that is no event only leaves the list (R109). -/
theorem step_of_noEvent {s : State} (hd : decode s.fetch.1 = .error .noEvent) :
    step s = .next { s with turns := s.turns.tail } := by
  unfold step
  rw [fetch_snd, hd]

/-- The host's turn: the operation its event decodes to. -/
theorem step_of_host_turn {s : State} {code : BitVec 2} {cap : BitVec 4} {rest : List Turn} {i : Instr}
    (ht : s.turns = .host code cap :: rest) (hd : decodeHostEvent code cap = .ok i) :
    step s = exec i { s with turns := rest } := by
  have hf : s.fetch.1 = .hevt code cap := by rw [State.fetch, ht]
  rw [step_of_decode_ok (by rw [hf]; exact hd), ht, List.tail_cons]

/-- The sequencer's turn: the operation `PHASE` names (R30). -/
theorem step_of_seq_turn {s : State} {rest : List Turn} {i : Instr} (ht : s.turns = .seq :: rest)
    (hd : decodePhase s.block.phase = .ok i) : step s = exec i { s with turns := rest } := by
  have hf : s.fetch.1 = .phase s.block.phase := by rw [State.fetch, ht]
  rw [step_of_decode_ok (by rw [hf]; exact hd), ht, List.tail_cons]

/-! ## The host's START and TICK -/

/-- START with all four capabilities in IDLE (R192). -/
theorem exec_start_accepted {s : State} (hp : s.block.phase = Phase.idle) :
    exec (.start 0b1111#4) s = .next { s with
      block := { s.block with startErr := 0#4, cap := 0b1111#4, phase := Phase.wait }
      trace := s.trace ++ [.startStatus true] } :=
  congrArg Host.Outcome.next (if_pos hp)

/-- START outside IDLE is ignored (R192). -/
theorem exec_start_ignored {s : State} (cap : BitVec 4) (hp : s.block.phase ≠ Phase.idle) :
    exec (.start cap) s = .next s :=
  congrArg Host.Outcome.next (if_neg hp)

/-- TICK outside WAIT is ignored (R194). -/
theorem exec_tick_ignored {s : State} (hp : s.block.phase ≠ Phase.wait) : exec .tick s = .next s :=
  congrArg Host.Outcome.next (if_neg hp)

/-! ## A run in HALT -/

/-- A host event that is not RESET is none at all, TICK or START (R103). -/
theorem decodeHostEvent_of_ne_reset {code : BitVec 2} (cap : BitVec 4) (hc : code ≠ HostEvent.reset) :
    decodeHostEvent code cap = .error .noEvent ∨ decodeHostEvent code cap = .ok .tick ∨
      decodeHostEvent code cap = .ok (.start cap) := by
  have hcodes : ∀ c : BitVec 2, c = 0#2 ∨ c = 1#2 ∨ c = 2#2 ∨ c = 3#2 := by decide
  rcases hcodes code with rfl | rfl | rfl | rfl
  · exact .inl rfl
  · exact .inr (.inl rfl)
  · exact .inr (.inr rfl)
  · exact absurd rfl hc

/-- A step in HALT other than RESET takes its turn off the list and writes at most the key lines (R199, R227). -/
theorem step_in_halt {s : State} (hr : ∀ turn ∈ s.turns, turn.isReset = false) (hp : s.block.phase = Phase.halt) :
    ∃ keys, step s = .next { s with block := { s.block with keys := keys }, turns := s.turns.tail } := by
  rcases fetch_fst_cases s with ⟨code, cap, hf, rest, ht⟩ | ⟨word, hf, _⟩ | ⟨hf, _⟩
  · have hc : code ≠ HostEvent.reset := by
      have hturn := hr (.host code cap) (by simp [ht])
      simpa [Turn.isReset] using hturn
    refine ⟨s.block.keys, ?_⟩
    rcases decodeHostEvent_of_ne_reset cap hc with hd | hd | hd
    · exact step_of_noEvent (by rw [hf]; exact hd)
    · rw [step_of_decode_ok (by rw [hf]; exact hd)]
      exact exec_tick_ignored (by rw [hp]; decide)
    · rw [step_of_decode_ok (by rw [hf]; exact hd)]
      exact exec_start_ignored cap (by rw [hp]; decide)
  · exact ⟨_, (step_of_decode_ok (by rw [hf]; rfl)).trans (keyEvent_eq word _)⟩
  · exact ⟨s.block.keys, step_of_decode_ok (by rw [hf, hp]; rfl)⟩

/-- The state is in HALT with no RESET to come, and its fault registers and its trace are those of `origin`. -/
structure HaltedAs (origin s : State) : Prop where
  noReset : ∀ turn ∈ s.turns, turn.isReset = false
  phase : s.block.phase = Phase.halt
  faultCause : s.block.faultCause = origin.block.faultCause
  faultInfo0 : s.block.faultInfo0 = origin.block.faultInfo0
  faultInfo1 : s.block.faultInfo1 = origin.block.faultInfo1
  trace : s.trace = origin.trace

/-- Every step from a halted state goes on and keeps it halted with the same fault (R227). -/
theorem step_keeps_haltedAs {origin s : State} (h : HaltedAs origin s) : ∃ t, step s = .next t ∧ HaltedAs origin t := by
  obtain ⟨keys, hstep⟩ := step_in_halt h.noReset h.phase
  exact ⟨_, hstep, { h with noReset := fun turn hmem => h.noReset turn (List.mem_of_mem_tail hmem) }⟩

/-! ## START after RESET -/

/-- RESET leaves INIT and no fault, keeping the trace and the turns (R250). -/
theorem exec_reset_clears_fault (s : State) : ∃ t, exec .reset s = .next t ∧ t.block.phase = Phase.init ∧
    t.block.faultCause = Cause.none ∧ t.trace = s.trace ∧ t.turns = s.turns :=
  ⟨_, rfl, rfl, rfl, rfl, rfl⟩

/-- INIT goes to IDLE and leaves the recorded cause, the trace and the turns (R175). -/
theorem exec_init_enters_idle (s : State) : ∃ t, exec .init s = .next t ∧ t.block.phase = Phase.idle ∧
    t.block.faultCause = s.block.faultCause ∧ t.trace = s.trace ∧ t.turns = s.turns :=
  ⟨_, rfl, rfl, rfl, rfl, rfl⟩

/-- From any state, RESET, INIT and a START with all four capabilities lead to WAIT with no fault recorded and the successful
start emitted (R192, R227, R251). -/
theorem run_reset_init_start {s : State} {p : BitVec 4} {later : List Turn}
    (hs : s.turns = .host 3#2 p :: .seq :: .host 2#2 0b1111#4 :: later) :
    ∃ t, Host.Core.run Sys2Proof.core 3 s = .next t ∧ t.block.phase = Phase.wait ∧ t.block.faultCause = Cause.none ∧
      t.trace = s.trace ++ [.startStatus true] ∧ t.turns = later := by
  obtain ⟨u, hu, hphase, hcause, htrace, hturns⟩ :=
    exec_reset_clears_fault { s with turns := .seq :: .host 2#2 0b1111#4 :: later }
  obtain ⟨v, hv, hphase', hcause', htrace', hturns'⟩ :=
    exec_init_enters_idle { u with turns := .host 2#2 0b1111#4 :: later }
  have hreset : step s = .next u := (step_of_host_turn hs rfl).trans hu
  have hinit : step u = .next v := (step_of_seq_turn hturns (by rw [hphase]; rfl)).trans hv
  have hstart := (step_of_host_turn hturns' rfl).trans (exec_start_accepted (s := { v with turns := later }) hphase')
  have hrun := (run_succ 2 s u hreset).trans ((run_succ 1 u v hinit).trans (run_succ 0 v _ hstart))
  exact ⟨_, hrun, rfl, hcause'.trans hcause, congrArg (· ++ [.startStatus true]) (htrace'.trans htrace), rfl⟩

/-! ## The obligation -/

/-- Settles O42: being halted with a given fault and trace is kept by every step of a run without RESET; and RESET, INIT and START
make a run of three steps to WAIT. -/
theorem haltAndItsCauseLastUntilReset : Obligations.HaltAndItsCauseLastUntilReset := by
  unfold Obligations.HaltAndItsCauseLastUntilReset
  refine ⟨fun k s hr hp => ?_, fun s p later _ hs => run_reset_init_start hs⟩
  have hinit : HaltedAs s s := ⟨hr, hp, rfl, rfl, rfl, rfl⟩
  obtain ⟨t, hrun, ht⟩ := run_goes_on (fun _ => step_keeps_haltedAs) k s hinit
  exact ⟨t, hrun, ht.phase, ht.faultCause, ht.faultInfo0, ht.faultInfo1, ht.trace⟩

end Sys2Proof.Machine
end

section
/-! Proofs for 30_encoding.md: the encoder and the decoder are inverse on well-formed words, the opcode table selects what the
decoder reads (R101 to R105), and the reserved `PHASE` codes (R108). -/

namespace Sys2Proof.Machine

/-! ## Decoding and encoding -/

/-- A key event word is its `down` bit and its key field, so encoding what it decodes to gives it back (R102). -/
theorem encode_decodeKeyEvent (word : BitVec 5) : encode (decodeKeyEvent word) = .kevt word := by
  revert word; decide

/-- Encoding what a well-formed word decodes to gives the word back (R105). -/
theorem encode_of_decode {w : OpWord} {i : Instr} (hd : decode w = .ok i) (hw : w.wellFormed = true) : encode i = w := by
  cases w with
  | hevt code cap =>
    rcases decodeHostEvent_cases hd with ⟨rfl, rfl⟩ | ⟨rfl, rfl⟩ | ⟨rfl, rfl⟩
    · obtain rfl : cap = 0#4 := by simpa [OpWord.wellFormed] using hw
      rfl
    · rfl
    · obtain rfl : cap = 0#4 := by simpa [OpWord.wellFormed] using hw
      rfl
  | kevt word =>
    obtain rfl : decodeKeyEvent word = i := Except.ok.inj hd
    exact encode_decodeKeyEvent word
  | phase code =>
    rcases decodePhase_cases hd with ⟨rfl, rfl⟩ | ⟨rfl, rfl⟩ | ⟨rfl, rfl⟩ | ⟨rfl, rfl⟩ | ⟨rfl, rfl⟩ | ⟨rfl, rfl⟩ | ⟨rfl, rfl⟩ |
      ⟨rfl, rfl⟩ | ⟨rfl, rfl⟩ | ⟨rfl, rfl⟩ | ⟨rfl, rfl⟩ | ⟨rfl, rfl⟩ <;> rfl

/-- The operation of a `PHASE` code is encoded as that code (R101). -/
theorem encode_of_decodePhase {code : BitVec 4} {i : Instr} (hd : decodePhase code = .ok i) : encode i = .phase code :=
  encode_of_decode (w := .phase code) hd ((decodePhase_legal code).mp ⟨i, hd⟩)

/-- A host event word that is not the code of no event decodes (R103). -/
theorem decodeHostEvent_ok {code : BitVec 2} (cap : BitVec 4) (hc : code ≠ HostEvent.none) :
    ∃ i, decodeHostEvent code cap = .ok i := by
  have hcodes : ∀ c : BitVec 2, c = 0#2 ∨ c = 1#2 ∨ c = 2#2 ∨ c = 3#2 := by decide
  rcases hcodes code with rfl | rfl | rfl | rfl
  · exact absurd rfl hc
  · exact ⟨_, rfl⟩
  · exact ⟨_, rfl⟩
  · exact ⟨_, rfl⟩

/-- A well-formed word decodes (R105). -/
theorem decode_ok_of_wellFormed {w : OpWord} (hw : w.wellFormed = true) : ∃ i, decode w = .ok i := by
  cases w with
  | hevt code cap =>
    simp only [OpWord.wellFormed, Bool.and_eq_true, bne_iff_ne] at hw
    exact decodeHostEvent_ok cap hw.1
  | kevt word => exact ⟨_, rfl⟩
  | phase code => exact (decodePhase_legal code).mpr hw

/-! ## The opcode table -/

/-- The payload beside a host event word is not part of the match (R105). -/
theorem selectedRows_hevt (code : BitVec 2) (cap : BitVec 4) :
    selectedRows (.hevt code cap) = selectedRows (.hevt code 0#4) := rfl

/-- The row a key event word selects is KEYDOWN's or KEYUP's, as its `down` bit says (R102, R105). -/
theorem selectedRows_kevt (word : BitVec 5) :
    ∃ row, selectedRows (.kevt word) = [row] ∧ row.mnemonic = (decodeKeyEvent word).mnemonic := by
  have hrow : ∀ v : BitVec 5, (selectedRows (.kevt v)).map (·.mnemonic) = [(decodeKeyEvent v).mnemonic] := by decide
  exact List.map_eq_singleton_iff.mp (hrow word)

/-- A word that decodes selects the row of its operation and no other (R105). -/
theorem selectedRows_of_decode_ok {w : OpWord} {i : Instr} (hd : decode w = .ok i) :
    ∃ row, selectedRows w = [row] ∧ row.mnemonic = i.mnemonic := by
  cases w with
  | hevt code cap =>
    rw [selectedRows_hevt]
    rcases decodeHostEvent_cases hd with ⟨rfl, rfl⟩ | ⟨rfl, rfl⟩ | ⟨rfl, rfl⟩ <;> exact ⟨_, rfl, rfl⟩
  | kevt word =>
    obtain rfl : decodeKeyEvent word = i := Except.ok.inj hd
    exact selectedRows_kevt word
  | phase code =>
    rcases decodePhase_cases hd with ⟨rfl, rfl⟩ | ⟨rfl, rfl⟩ | ⟨rfl, rfl⟩ | ⟨rfl, rfl⟩ | ⟨rfl, rfl⟩ | ⟨rfl, rfl⟩ | ⟨rfl, rfl⟩ |
      ⟨rfl, rfl⟩ | ⟨rfl, rfl⟩ | ⟨rfl, rfl⟩ | ⟨rfl, rfl⟩ | ⟨rfl, rfl⟩ <;> exact ⟨_, rfl, rfl⟩

/-- A word the decoder refuses is the code of no event or a reserved `PHASE` code (R103, R108). -/
theorem decode_error_cases {w : OpWord} {e : DecodeError} (hd : decode w = .error e) :
    (∃ cap, w = .hevt HostEvent.none cap) ∨ ∃ code, w = .phase code ∧ phaseCodeLegal code = false := by
  cases w with
  | hevt code cap =>
    by_cases hc : code = HostEvent.none
    · exact .inl ⟨cap, by rw [hc]⟩
    · obtain ⟨i, hi⟩ := decodeHostEvent_ok cap hc
      cases hi.symm.trans hd
  | kevt word => cases hd
  | phase code =>
    refine .inr ⟨code, rfl, Bool.not_eq_true _ ▸ fun hl => ?_⟩
    obtain ⟨i, hi⟩ := (decodePhase_legal code).mpr hl
    cases hi.symm.trans hd

/-- A reserved `PHASE` code selects no row (R105, R108). -/
theorem selectedRows_reserved {code : BitVec 4} (hc : phaseCodeLegal code = false) : selectedRows (.phase code) = [] := by
  revert code; decide

/-- A reserved `PHASE` code is refused by its name (R108). -/
theorem decodePhase_reserved {code : BitVec 4} (hc : phaseCodeLegal code = false) :
    decodePhase code = .error (.reservedPhase code) := by
  revert code; decide

/-! ## The obligations -/

/-- Settles O1: constructor by constructor; a key event word is decoded by its `down` bit and its key field. -/
theorem decodingAnEncodedOperationGivesItBack : Obligations.DecodingAnEncodedOperationGivesItBack := by
  unfold Obligations.DecodingAnEncodedOperationGivesItBack
  intro i
  cases i with
  | keydown key => exact ⟨congrArg Except.ok (decodeKeyEvent_down key), rfl⟩
  | keyup key => exact ⟨congrArg Except.ok (decodeKeyEvent_up key), rfl⟩
  | _ => exact ⟨rfl, rfl⟩

/-- Settles O2: a well-formed word decodes, and its operation is encoded as that word. -/
theorem everyWellFormedWordIsAnEncoding : Obligations.EveryWellFormedWordIsAnEncoding := by
  unfold Obligations.EveryWellFormedWordIsAnEncoding
  intro w hw
  obtain ⟨i, hi⟩ := decode_ok_of_wellFormed hw
  exact ⟨i, hi, encode_of_decode hi hw⟩

/-- Settles O3: the decoded operation's row is the only one selected; the refused words are those of no event and the reserved
codes, which select none. -/
theorem opcodeTableSelectsTheDecodedRow : Obligations.OpcodeTableSelectsTheDecodedRow := by
  unfold Obligations.OpcodeTableSelectsTheDecodedRow
  refine ⟨fun w i hd => selectedRows_of_decode_ok hd, fun w e hd => ?_⟩
  rcases decode_error_cases hd with ⟨cap, rfl⟩ | ⟨code, rfl, hc⟩
  · rw [selectedRows_hevt]; decide
  · exact selectedRows_reserved hc

/-- Settles O4: each word is decoded as its table says. -/
theorem wordsOfTheEncodingTablesDecode : Obligations.WordsOfTheEncodingTablesDecode := by
  unfold Obligations.WordsOfTheEncodingTablesDecode
  decide

end Sys2Proof.Machine
end

section
/-! Lemmas for the proofs below: which operation a step runs, and each outcome of an operation as one equation, every element
written out (R101, R123, R175, R192 to R198, R250). -/

namespace Sys2Proof.Machine

/-! ## Which operation a step runs -/

/-- With no turn listed the sequencer moves (log 1). -/
theorem step_of_no_turn {s : State} {i : Instr} (ht : s.turns = []) (hd : decodePhase s.block.phase = .ok i) :
    step s = exec i s := by
  have hf : s.fetch = (.phase s.block.phase, s) := by rw [State.fetch, ht]
  rw [step, hf, show decode (.phase s.block.phase) = .ok i from hd]

/-- The key event source's turn runs its event (R102). -/
theorem step_of_key_word {s : State} {word : BitVec 5} {rest : List Turn} (ht : s.turns = .key word :: rest) :
    step s = exec (decodeKeyEvent word) { s with turns := rest } := by
  have hf : s.fetch.1 = .kevt word := by rw [State.fetch, ht]
  rw [step_of_decode_ok (by rw [hf]; rfl), ht, List.tail_cons]

/-- The word of a step's operation. -/
theorem decode_of_nextInstr {s : State} {i : Instr} (h : nextInstr s = some i) : decode s.fetch.1 = .ok i := by
  unfold nextInstr at h
  cases hd : decode s.fetch.1 with
  | ok j => rw [hd] at h; exact congrArg Except.ok (Option.some.inj h)
  | error e => rw [hd] at h; cases h

/-- A step that goes on without an operation has fetched the word of no event (R109). -/
theorem decode_noEvent_of_step {s t : State} (hst : step s = .next t) (hnone : nextInstr s = none) :
    decode s.fetch.1 = .error .noEvent := by
  rcases step_cases hst with ⟨i, hd, _⟩ | ⟨hd, _⟩
  · rw [nextInstr, hd] at hnone; cases hnone
  · exact hd

/-- With no RESET among the turns, the host's next turn is none. -/
theorem code_ne_reset {s : State} {code : BitVec 2} {cap : BitVec 4} {rest : List Turn}
    (hr : ∀ turn ∈ s.turns, turn.isReset = false) (ht : s.turns = .host code cap :: rest) : code ≠ HostEvent.reset := by
  have hturn := hr (.host code cap) (by simp [ht])
  simpa [Turn.isReset] using hturn

/-- The host's turn that is not RESET: no event, TICK or START (R103). -/
theorem step_of_hostEvent {s : State} {code : BitVec 2} {cap : BitVec 4} (hf : s.fetch.1 = .hevt code cap)
    (hc : code ≠ HostEvent.reset) :
    step s = .next { s with turns := s.turns.tail } ∨ step s = exec .tick { s with turns := s.turns.tail } ∨
      step s = exec (.start cap) { s with turns := s.turns.tail } := by
  rcases decodeHostEvent_of_ne_reset cap hc with hd | hd | hd
  · exact .inl (step_of_noEvent (by rw [hf]; exact hd))
  · exact .inr (.inl (step_of_decode_ok (by rw [hf]; exact hd)))
  · exact .inr (.inr (step_of_decode_ok (by rw [hf]; exact hd)))

/-- To prove something of the operation `PHASE` names, prove it of each phase operation at its own code (R101). -/
theorem phaseOperation_cases {code : BitVec 4} {motive : (i : Instr) → decodePhase code = .ok i → Prop}
    (idle : ∀ hd, code = Phase.idle → motive .idle hd)
    (sample : ∀ hd, code = Phase.sample → motive .sample hd)
    (step : ∀ hd, code = Phase.step → motive .step hd)
    (acquire : ∀ hd, code = Phase.acquire → motive .acquire hd)
    (xscreen : ∀ hd, code = Phase.xscreen → motive .xscreen hd)
    (xpal : ∀ hd, code = Phase.xpal → motive .xpal hd)
    (decode : ∀ hd, code = Phase.decode → motive .decode hd)
    (composite : ∀ hd, code = Phase.composite → motive .composite hd)
    (present : ∀ hd, code = Phase.present → motive .present hd)
    (wait : ∀ hd, code = Phase.wait → motive .wait hd)
    (init : ∀ hd, code = Phase.init → motive .init hd)
    (halt : ∀ hd, code = Phase.halt → motive .halt hd)
    (i : Instr) (hd : decodePhase code = .ok i) : motive i hd := by
  rcases decodePhase_cases hd with ⟨hp, rfl⟩ | ⟨hp, rfl⟩ | ⟨hp, rfl⟩ | ⟨hp, rfl⟩ | ⟨hp, rfl⟩ | ⟨hp, rfl⟩ |
    ⟨hp, rfl⟩ | ⟨hp, rfl⟩ | ⟨hp, rfl⟩ | ⟨hp, rfl⟩ | ⟨hp, rfl⟩ | ⟨hp, rfl⟩
  exacts [idle hd hp, sample hd hp, step hd hp, acquire hd hp, xscreen hd hp, xpal hd hp,
    decode hd hp, composite hd hp, present hd hp, wait hd hp, init hd hp, halt hd hp]

/-! ## Each outcome of an operation -/

/-- The `PIX` that INIT leaves (R175). -/
def initPix (pix : Vector Byte Config.pixBytes) : Vector Byte Config.pixBytes :=
  bufferOf (fillAlpha pix.toList) ((fillAlpha_length _).trans pix.size_toArray)

/-- INIT answers in every state: the alpha bytes, `PHASE <- IDLE`, nothing else (R175). -/
theorem exec_init_eq (s : State) :
    exec .init s = .next { s with block := { s.block with pix := initPix s.block.pix, phase := Phase.idle } } := rfl

/-- INIT writes no byte but the alpha bytes (R175). -/
theorem initPix_colour (pix : Vector Byte Config.pixBytes) {j : Nat} (hj : j % 4 ≠ 3) : (initPix pix)[j]? = pix[j]? :=
  (initPix_getElem? pix _ j).trans (if_neg fun h => hj h.1)

/-- INIT fills every alpha byte (R175, R183). -/
theorem initPix_alphaFull (pix : Vector Byte Config.pixBytes) : AlphaFull (initPix pix) := by
  intro i hi
  simp only [Config.nPix] at hi
  exact (initPix_getElem? pix _ _).trans (if_pos ⟨by omega, by omega⟩)

/-- SAMPLE answers in every state: both masks from the key lines, `PHASE <- STEP`, nothing else (R123). -/
theorem exec_sample_eq (s : State) : exec .sample s = .next { s with block := { s.block with
    p1Mask := maskOf s.config.binding.p1 s.block.keys
    p2Mask := maskOf s.config.binding.p2 s.block.keys
    phase := Phase.step } } := rfl

/-- PRESENT answers in every state: all of `PIX` emitted, `PHASE <- WAIT`, nothing else (R198). -/
theorem exec_present_eq (s : State) : exec .present s = .next { s with
    block := { s.block with phase := Phase.wait }, trace := s.trace ++ [.present s.block.pix] } := rfl

/-- RESET answers in every state: the block's reset values, the environment, the trace and the configuration kept (R250). -/
theorem exec_reset_eq (s : State) :
    exec .reset s = .next { s with block := blockAfterReset s.config s.draws, draws := s.draws + 1 } := rfl

/-- START in IDLE with a capability missing records what is missing and goes on waiting (R192, R36). -/
theorem exec_start_failed {s : State} {cap : BitVec 4} (hp : s.block.phase = Phase.idle) (hcap : cap ≠ 0b1111#4) :
    exec (.start cap) s = .next { s with
      block := { s.block with startErr := missingCaps cap }, trace := s.trace ++ [.startStatus false] } :=
  congrArg Host.Outcome.next ((if_pos hp).trans (if_neg hcap))

/-- TICK in WAIT begins a frame (R194). -/
theorem exec_tick_accepted {s : State} (hp : s.block.phase = Phase.wait) :
    exec .tick s = .next { s with block := { s.block with phase := Phase.sample } } :=
  congrArg Host.Outcome.next (if_pos hp)

/-- STEP without the step capability halts (R196, R216 cause 1). -/
theorem exec_step_missing {s : State} (hcap : hasStep s.block.cap = false) :
    exec .step s = .next (haltEntry Cause.accessorMissing (missingCaps s.block.cap).toNat 0 s) :=
  congrArg Host.Outcome.next (if_neg (hcap ▸ Bool.false_ne_true))

/-- STEP stays where it is while the module has not returned (R197, log 12). -/
theorem exec_step_pending {s : State} (hcap : hasStep s.block.cap = true) (hr : s.stepReturns = []) :
    exec .step s = .next s := by
  change execStep s = _
  rw [execStep, if_pos hcap, hr]

/-- STEP with the module's return there hands over both masks and goes to ACQUIRE (R196, R77). -/
theorem exec_step_returns {s : State} {m : ComputeModule} {rest : List ComputeModule} (hcap : hasStep s.block.cap = true)
    (hr : s.stepReturns = m :: rest) :
    exec .step s = .next { s with
      block := { s.block with phase := Phase.acquire }
      moduleNow := m.landed s.config.ptrWidth
      stepReturns := rest
      trace := s.trace ++ [.stepReq s.block.p1Mask.toNat s.block.p2Mask.toNat] } := by
  change execStep s = _
  rw [execStep, if_pos hcap, hr]
  rfl

/-- Every operation but XSCREEN and XPAL answers a next state in every state; those two may stop on a read outside the
module's memory (R62). -/
theorem exec_goes_on {i : Instr} (hs : i ≠ .xscreen) (hp : i ≠ .xpal) (s : State) : ∃ t, exec i s = .next t := by
  cases i with
  | xscreen => exact absurd rfl hs
  | xpal => exact absurd rfl hp
  | _ => exact ⟨_, rfl⟩

end Sys2Proof.Machine
end

section
/-! Proofs for 41_buffer_reader.md: ACQUIRE's latches and the two copies of regions of the module's memory (R140 to R145, R74,
R62, R216). -/

namespace Sys2Proof.Machine

/-! ## ACQUIRE -/

/-- With no entry in the script the queries change nothing (R78, log 13). -/
theorem queriesReturned_of_nil {s : State} (hq : s.queryReturns = []) : s.queriesReturned = s := by
  rw [State.queriesReturned, hq]

/-- With an entry the module is what it says, landed (R78, log 27). -/
theorem queriesReturned_of_cons {s : State} {m : ComputeModule} {rest : List ComputeModule} (hq : s.queryReturns = m :: rest) :
    s.queriesReturned = { s with moduleNow := m.landed s.config.ptrWidth, queryReturns := rest } := by
  rw [State.queriesReturned, hq]

/-- ACQUIRE with the three query capabilities latches the answers of the module as its queries leave it (R140). -/
theorem exec_acquire_latches {s : State} (hcap : hasQueries s.block.cap = true) :
    exec .acquire s = .next (latchView s.queriesReturned) :=
  congrArg Host.Outcome.next (if_pos hcap)

/-- The same with every element written out: `m` is the module the queries leave, `rest` the script after them (R140, R78). -/
theorem exec_acquire_eq {s : State} {m : ComputeModule} {rest : List ComputeModule} (hcap : hasQueries s.block.cap = true)
    (hm : (s.queryReturns = [] ∧ rest = [] ∧ m = s.moduleNow) ∨
      ∃ q, s.queryReturns = q :: rest ∧ m = q.landed s.config.ptrWidth) :
    exec .acquire s = .next { s with
      block := { s.block with
        screenPtr := trunc s.config.ptrWidth m.screenPtr
        palettePtr := trunc s.config.ptrWidth m.palettePtr
        memSz := trunc (s.config.ptrWidth + 1) m.size
        phase := Phase.xscreen }
      moduleNow := m
      queryReturns := rest } := by
  rw [exec_acquire_latches hcap]
  rcases hm with ⟨hq, rfl, rfl⟩ | ⟨q, hq, rfl⟩
  · rw [queriesReturned_of_nil hq, ← hq]; rfl
  · rw [queriesReturned_of_cons hq]; rfl

/-- ACQUIRE without one of them halts (R140, R216 cause 1). -/
theorem exec_acquire_missing {s : State} (hcap : hasQueries s.block.cap = false) :
    exec .acquire s = .next (haltEntry Cause.accessorMissing (missingCaps s.block.cap).toNat 0 s) :=
  congrArg Host.Outcome.next (if_neg (hcap ▸ Bool.false_ne_true))

/-! ## XSCREEN and XPAL -/

/-- XSCREEN on a region that fits copies what `MemRead` answers (R142). -/
theorem exec_xscreen_reads {s : State} {bytes : Vector Byte Config.nPix} (hfit : s.block.screenPtr + 76800 ≤ s.block.memSz)
    (hread : memRead s.moduleNow s.block.screenPtr Config.nPix = some bytes) :
    exec .xscreen s = .next { s with block := { s.block with scr := bytes, phase := Phase.xpal } } := by
  change execXscreen s = _
  rw [execXscreen, if_pos ((regionFits_iff _ _ _).mpr hfit), hread]
  rfl

/-- XSCREEN on a region inside the latched size and the module's memory copies its bytes (R142, R62). -/
theorem exec_xscreen_copies {s : State} (hfit : s.block.screenPtr + 76800 ≤ s.block.memSz)
    (hmem : s.block.screenPtr + 76800 ≤ s.moduleNow.size) :
    exec .xscreen s = .next { s with block := { s.block with
      scr := tabulate 76800 fun j => Memory.read s.moduleNow.mem (s.block.screenPtr + j), phase := Phase.xpal } } :=
  exec_xscreen_reads hfit (memRead_inside _ _ _ hmem)

/-- XSCREEN on a region past the latched size halts (R142, R216 cause 2). -/
theorem exec_xscreen_oob {s : State} (hout : s.block.memSz < s.block.screenPtr + 76800) :
    exec .xscreen s = .next (haltEntry Cause.oobScreen s.block.screenPtr s.block.memSz s) :=
  if_neg (by rw [(regionFits_false_iff _ _ _).mpr hout]; exact Bool.false_ne_true)

/-- XSCREEN on a region that only the latched size has room for stops (R62). -/
theorem exec_xscreen_undefined {s : State} (hfit : s.block.screenPtr + 76800 ≤ s.block.memSz)
    (hmem : s.moduleNow.size < s.block.screenPtr + 76800) : exec .xscreen s = .fault .memReadUndefined := by
  change execXscreen s = _
  rw [execXscreen, if_pos ((regionFits_iff _ _ _).mpr hfit), memRead_outside _ _ _ hmem]

/-- XPAL on a region that fits copies what `MemRead` answers (R144). -/
theorem exec_xpal_reads {s : State} {bytes : Vector Byte Config.palBytes} (hfit : s.block.palettePtr + 64 ≤ s.block.memSz)
    (hread : memRead s.moduleNow s.block.palettePtr Config.palBytes = some bytes) :
    exec .xpal s = .next { s with block := { s.block with pal := bytes, phase := Phase.decode } } := by
  change execXpal s = _
  rw [execXpal, if_pos ((regionFits_iff _ _ _).mpr hfit), hread]
  rfl

/-- XPAL on a region inside the latched size and the module's memory copies its bytes (R144, R62). -/
theorem exec_xpal_copies {s : State} (hfit : s.block.palettePtr + 64 ≤ s.block.memSz)
    (hmem : s.block.palettePtr + 64 ≤ s.moduleNow.size) :
    exec .xpal s = .next { s with block := { s.block with
      pal := tabulate 64 fun j => Memory.read s.moduleNow.mem (s.block.palettePtr + j), phase := Phase.decode } } :=
  exec_xpal_reads hfit (memRead_inside _ _ _ hmem)

/-- XPAL on a region past the latched size halts (R144, R216 cause 3). -/
theorem exec_xpal_oob {s : State} (hout : s.block.memSz < s.block.palettePtr + 64) :
    exec .xpal s = .next (haltEntry Cause.oobPalette s.block.palettePtr s.block.memSz s) :=
  if_neg (by rw [(regionFits_false_iff _ _ _).mpr hout]; exact Bool.false_ne_true)

/-- XPAL on a region that only the latched size has room for stops (R62). -/
theorem exec_xpal_undefined {s : State} (hfit : s.block.palettePtr + 64 ≤ s.block.memSz)
    (hmem : s.moduleNow.size < s.block.palettePtr + 64) : exec .xpal s = .fault .memReadUndefined := by
  change execXpal s = _
  rw [execXpal, if_pos ((regionFits_iff _ _ _).mpr hfit), memRead_outside _ _ _ hmem]

/-! ## The module -/

/-- What lands of an image `m`: its own pointers, its size up to `2^PTR_WIDTH`, and a memory that reads as the image's
(R24, R60, R77). -/
theorem landed_reads_as_image (w : Nat) (m : ComputeModule) :
    m.landed w = { m with mem := (m.landed w).mem, size := min m.size (2 ^ w) } ∧
    ∀ a, Memory.read (m.landed w).mem a = Memory.read m.mem a :=
  ⟨rfl, Memory.read_ofCells m.mem⟩

/-- Every operation but STEP and ACQUIRE leaves the module as it is (R63). -/
theorem exec_keeps_module {i : Instr} {s t : State} (h : exec i s = .next t) (hs : i ≠ .step) (ha : i ≠ .acquire) :
    t.moduleNow = s.moduleNow := by
  cases i with
  | step => exact absurd rfl hs
  | acquire => exact absurd rfl ha
  | start cap => rcases execStart_cases h with ⟨_, _, rfl⟩ | ⟨_, _, rfl⟩ | ⟨_, rfl⟩ <;> rfl
  | tick => rcases execTick_cases h with ⟨_, rfl⟩ | ⟨_, rfl⟩ <;> rfl
  | xscreen => rcases execXscreen_cases h with ⟨_, rfl⟩ | ⟨_, _, _, rfl⟩ <;> rfl
  | xpal => rcases execXpal_cases h with ⟨_, rfl⟩ | ⟨_, _, _, rfl⟩ <;> rfl
  | composite => rcases execComposite_cases h with ⟨_, rfl⟩ | ⟨_, _, _, _, _, rfl⟩ <;> rfl
  | _ => cases h; rfl

/-! ## The obligations -/

/-- Settles O15: with the three capabilities the queries return, by the script or unchanged, and their answers are latched; a
size of at most `2^PTR_WIDTH` has the width of `MEMSZ`. -/
theorem acquireLatchesTheModulesAnswers : Obligations.AcquireLatchesTheModulesAnswers := by
  unfold Obligations.AcquireLatchesTheModulesAnswers
  intro s h1 h2 h3
  rw [exec_acquire_latches ((hasQueries_iff _).mpr ⟨h1, h2, h3⟩)]
  refine ⟨fun hq => ?unchanged, fun m rest hq => ?scripted⟩
  case unchanged => rw [queriesReturned_of_nil hq]; rfl
  case scripted =>
    obtain ⟨hland, hread⟩ := landed_reads_as_image s.config.ptrWidth m
    have hsize : trunc (s.config.ptrWidth + 1) (min m.size (2 ^ s.config.ptrWidth)) = min m.size (2 ^ s.config.ptrWidth) :=
      trunc_succ_of_le (Nat.min_le_right _ _)
    rw [queriesReturned_of_cons hq]
    refine ⟨_, rfl, ?_, hread⟩
    rw [latchView, ComputeModule.landed_size, hsize]
    rfl

/-- Settles O17: the region is inside both sizes, so its bytes are copied one by one. -/
theorem xscreenCopiesTheScreenRegion : Obligations.XscreenCopiesTheScreenRegion := by
  unfold Obligations.XscreenCopiesTheScreenRegion
  intro s hfit hmem
  exact ⟨_, exec_xscreen_copies hfit hmem, rfl, fun j hj => (tabulate_getElem? _ _ j).trans (if_pos hj)⟩

/-- Settles O18: the region is inside both sizes, so its bytes are copied one by one. -/
theorem xpalCopiesThePaletteRegion : Obligations.XpalCopiesThePaletteRegion := by
  unfold Obligations.XpalCopiesThePaletteRegion
  intro s hfit hmem
  exact ⟨_, exec_xpal_copies hfit hmem, rfl, fun j hj => (tabulate_getElem? _ _ j).trans (if_pos hj)⟩

/-- Settles O19: the region test fails in the naturals, and the halt entry is the whole effect. -/
theorem outOfBoundsRegionHalts : Obligations.OutOfBoundsRegionHalts := by
  unfold Obligations.OutOfBoundsRegionHalts
  exact ⟨fun _ hout => exec_xscreen_oob hout, fun _ hout => exec_xpal_oob hout⟩

/-- Settles O20: the region test passes and `MemRead` is not defined. -/
theorem copyOutsideTheModulesMemoryStops : Obligations.CopyOutsideTheModulesMemoryStops := by
  unfold Obligations.CopyOutsideTheModulesMemoryStops
  exact ⟨fun _ hfit hmem => exec_xscreen_undefined hfit hmem, fun _ hfit hmem => exec_xpal_undefined hfit hmem⟩

/-- Settles O22: STEP and ACQUIRE take the module from their script or leave it, the others leave it. -/
theorem onlyTheModuleChangesItsMemory : Obligations.OnlyTheModuleChangesItsMemory := by
  unfold Obligations.OnlyTheModuleChangesItsMemory
  refine fun i s t h => ⟨fun hs ha => exec_keeps_module h hs ha, ?step, ?acquire⟩
  case step =>
    rintro rfl
    rcases execStep_cases h with ⟨_, rfl⟩ | ⟨_, _, rfl⟩ | ⟨m, rest, _, hr, rfl⟩
    · exact .inl rfl
    · exact .inl rfl
    · exact .inr ⟨m, rest, hr, rfl, landed_reads_as_image _ m⟩
  case acquire =>
    rintro rfl
    rcases execAcquire_cases h with ⟨_, rfl⟩ | ⟨m, rest, _, ⟨_, _, rfl⟩ | ⟨q, hq, rfl⟩, rfl⟩
    · exact .inl rfl
    · exact .inl rfl
    · exact .inr ⟨q, rest, hq, rfl, landed_reads_as_image _ q⟩

end Sys2Proof.Machine
end

section
/-! Proofs for the invariant of the machine: RESET establishes it, every step keeps it, and under it no step stops (R108, R183,
R192, R216, R225, R78). -/

namespace Sys2Proof.Machine

/-! ## The phases of a session that goes on -/

/-- A module is started and no fault is recorded: SAMPLE to WAIT (R101). -/
abbrev Running (p : BitVec 4) : Prop := 1 ≤ p.toNat ∧ p.toNat ≤ 9

theorem Running.legal {p : BitVec 4} (h : Running p) : phaseCodeLegal p = true := by
  simp only [phaseCodeLegal, Bool.or_eq_true, decide_eq_true_eq]; omega

theorem Running.started {p : BitVec 4} (h : Running p) : ¬ NotStarted p := by
  rintro (rfl | rfl) <;> exact absurd h (by decide)

theorem Running.ne_halt {p : BitVec 4} (h : Running p) : p ≠ Phase.halt := by
  rintro rfl; exact absurd h (by decide)

theorem Running.ne_init {p : BitVec 4} (h : Running p) : p ≠ Phase.init := fun hp => h.started (.inl hp)

theorem Running.ne_idle {p : BitVec 4} (h : Running p) : p ≠ Phase.idle := fun hp => h.started (.inr hp)

/-! ## Moves that keep the invariant -/

/-- Outside HALT no fault is recorded (R227). -/
theorem Inv.no_fault {s : State} (h : Inv s) (hp : s.block.phase ≠ Phase.halt) : s.block.faultCause = Cause.none :=
  not_not.mp (mt h.faultIffHalt.mpr hp)

/-- A session goes on to another of its phases; one of the copying phases needs the latched size current (R78). -/
theorem Inv.enter {s : State} (h : Inv s) (hp : Running s.block.phase) {q : BitVec 4} (hq : Running q)
    (hv : q = Phase.xscreen ∨ q = Phase.xpal → s.block.memSz = s.moduleNow.size) :
    Inv { s with block := { s.block with phase := q } } :=
  { h with
    phaseLegal := hq.legal
    alpha := fun _ => h.alpha hp.ne_init
    faultIffHalt := iff_of_false hq.ne_halt (not_not.mpr (h.no_fault hp.ne_halt))
    capBefore := fun hn => absurd hn hq.started
    capAfter := fun _ => h.capAfter hp.started
    startErrAfter := fun _ => h.startErrAfter hp.ne_idle
    viewCurrent := hv }

/-- The halt entry with one of the causes 2 to 4 (R216, R225). -/
theorem Inv.halted {s : State} (h : Inv s) (hp : Running s.block.phase) {c : BitVec 3} (i0 i1 : Nat)
    (hc : c = Cause.oobScreen ∨ c = Cause.oobPalette ∨ c = Cause.indexRange) : Inv (haltEntry c i0 i1 s) :=
  have hne : c ≠ Cause.none := by rcases hc with rfl | rfl | rfl <;> decide
  { h with
    phaseLegal := rfl
    faultInfoWidths := ⟨trunc_lt _ _, trunc_lt _ _⟩
    alpha := fun _ => h.alpha hp.ne_init
    faultIffHalt := iff_of_true rfl hne
    faultKnown := .inr hc
    faultInfoZero := fun hn => absurd hn hne
    capBefore := fun hn => absurd hn (by unfold NotStarted; decide : ¬ NotStarted Phase.halt)
    capAfter := fun _ => h.capAfter hp.started
    startErrAfter := fun _ => h.startErrAfter hp.ne_idle
    viewCurrent := fun hv => absurd hv (by decide : ¬ (Phase.halt = Phase.xscreen ∨ Phase.halt = Phase.xpal)) }

/-- Another module where no copy is being made (R77, R78). -/
theorem Inv.withModule {s : State} (h : Inv s) (hp : ¬ (s.block.phase = Phase.xscreen ∨ s.block.phase = Phase.xpal))
    {m : ComputeModule} (hm : m.size ≤ 2 ^ s.config.ptrWidth ∧ Memory.wf m.mem) : Inv { s with moduleNow := m } :=
  { h with
    memCanonical := hm.2
    moduleSizeBound := hm.1
    viewCurrent := fun hv => absurd hv hp }

/-- Pixels with the same alpha bytes (R183). -/
theorem Inv.withPix {s : State} (h : Inv s) {pix : Vector Byte Config.pixBytes}
    (hpix : ∀ j, j % 4 = 3 → pix[j]? = s.block.pix[j]?) : Inv { s with block := { s.block with pix := pix } } :=
  { h with alpha := fun hp i hi => (hpix _ (by omega)).trans (h.alpha hp i hi) }

/-- The latches at their widths (R23, R24, R78). -/
theorem Inv.latched {s : State} (h : Inv s) (hp : s.block.phase = Phase.acquire) :
    Inv { s with block := { s.block with
      screenPtr := trunc s.config.ptrWidth s.moduleNow.screenPtr
      palettePtr := trunc s.config.ptrWidth s.moduleNow.palettePtr
      memSz := trunc (s.config.ptrWidth + 1) s.moduleNow.size } } :=
  { h with
    ptrWidths := ⟨trunc_lt _ _, trunc_lt _ _⟩
    memSzBound := (trunc_succ_of_le h.moduleSizeBound).trans_le h.moduleSizeBound
    viewCurrent := fun hv => absurd (hp ▸ hv) (by decide) }

/-! ## The phase operations -/

/-- INIT: the alpha bytes are filled and no module is started (R175, R183). -/
theorem exec_init_keeps_inv {s t : State} (h : Inv s) (hp : s.block.phase = Phase.init) (he : exec .init s = .next t) :
    Inv t := by
  rw [exec_init_eq] at he
  cases he
  have hcause := h.no_fault (hp ▸ (by decide : Phase.init ≠ Phase.halt))
  exact
    { h with
      phaseLegal := rfl
      alpha := fun _ => initPix_alphaFull s.block.pix
      faultIffHalt := iff_of_false (by decide : Phase.idle ≠ Phase.halt) (not_not.mpr hcause)
      capBefore := fun _ => h.capBefore (.inl hp)
      capAfter := fun hn => absurd (.inr rfl) hn
      startErrAfter := fun hne => absurd rfl hne
      viewCurrent := fun hv => absurd hv (by decide : ¬ (Phase.idle = Phase.xscreen ∨ Phase.idle = Phase.xpal)) }

/-- SAMPLE, DECODE and PRESENT: what they write is no element of the invariant (R123, R160, R198). -/
theorem exec_frame_operation_keeps_inv {i : Instr} {s t : State} (h : Inv s) (hp : Running s.block.phase)
    (hi : i = .sample ∨ i = .decode ∨ i = .present) (he : exec i s = .next t) : Inv t := by
  rcases hi with rfl | rfl | rfl <;> cases he
  · exact { h.enter hp (q := Phase.step) (by decide) (fun hv => absurd hv (by decide)) with }
  · exact { h.enter hp (q := Phase.composite) (by decide) (fun hv => absurd hv (by decide)) with }
  · exact { h.enter hp (q := Phase.wait) (by decide) (fun hv => absurd hv (by decide)) with }

/-- STEP: a started module has the capability, so it stays or its return lands (R196, R197). -/
theorem execStep_keeps_inv {s t : State} (h : Inv s) (hp : s.block.phase = Phase.step) (he : execStep s = .next t) :
    Inv t := by
  have hrun : Running s.block.phase := by rw [hp]; decide
  rcases execStep_cases he with ⟨hcap, _⟩ | ⟨_, _, rfl⟩ | ⟨m, rest, _, _, rfl⟩
  · rw [h.capAfter hrun.started] at hcap; cases hcap
  · exact h
  · have hmod := h.withModule (by rw [hp]; decide) (landed_bounds s.config.ptrWidth m)
    exact { hmod.enter hrun (q := Phase.acquire) (by decide) (fun hv => absurd hv (by decide)) with }

/-- ACQUIRE: the latched size is that of the module the queries leave (R78, R140). -/
theorem execAcquire_keeps_inv {s t : State} (h : Inv s) (hp : s.block.phase = Phase.acquire)
    (he : execAcquire s = .next t) : Inv t := by
  have hrun : Running s.block.phase := by rw [hp]; decide
  rcases execAcquire_cases he with ⟨hcap, _⟩ | ⟨m, rest, _, hm, rfl⟩
  · rw [h.capAfter hrun.started] at hcap; cases hcap
  · have hbounds : m.size ≤ 2 ^ s.config.ptrWidth ∧ Memory.wf m.mem := by
      rcases hm with ⟨_, _, rfl⟩ | ⟨q, _, rfl⟩
      · exact ⟨h.moduleSizeBound, h.memCanonical⟩
      · exact landed_bounds _ q
    have hlatched := (h.withModule (by rw [hp]; decide) hbounds).latched hp
    exact { hlatched.enter hrun (q := Phase.xscreen) (by decide) (fun _ => trunc_succ_of_le hbounds.1) with }

/-- XSCREEN: the copy is no element of the invariant, and OOB_SCREEN is one of its causes (R142, R216). -/
theorem execXscreen_keeps_inv {s t : State} (h : Inv s) (hp : s.block.phase = Phase.xscreen)
    (he : execXscreen s = .next t) : Inv t := by
  have hrun : Running s.block.phase := by rw [hp]; decide
  rcases execXscreen_cases he with ⟨_, rfl⟩ | ⟨bytes, _, _, rfl⟩
  · exact h.halted hrun _ _ (.inl rfl)
  · exact { h.enter hrun (q := Phase.xpal) (by decide) (fun _ => h.viewCurrent (.inl hp)) with }

/-- XPAL: the copy is no element of the invariant, and OOB_PALETTE is one of its causes (R144, R216). -/
theorem execXpal_keeps_inv {s t : State} (h : Inv s) (hp : s.block.phase = Phase.xpal) (he : execXpal s = .next t) :
    Inv t := by
  have hrun : Running s.block.phase := by rw [hp]; decide
  rcases execXpal_cases he with ⟨_, rfl⟩ | ⟨bytes, _, _, rfl⟩
  · exact h.halted hrun _ _ (.inr (.inl rfl))
  · exact { h.enter hrun (q := Phase.decode) (by decide) (fun hv => absurd hv (by decide)) with }

/-- COMPOSITE: no alpha byte is written, and INDEX_RANGE is one of the causes (R177, R178, R216). -/
theorem execComposite_keeps_inv {s t : State} (h : Inv s) (hp : s.block.phase = Phase.composite)
    (he : execComposite s = .next t) : Inv t := by
  have hrun : Running s.block.phase := by rw [hp]; decide
  have hpix := h.withPix (compositePix_alpha s.block)
  rcases execComposite_cases he with ⟨_, rfl⟩ | ⟨i, x, _, _, _, rfl⟩
  · exact { hpix.enter hrun (q := Phase.present) (by decide) (fun hv => absurd hv (by decide)) with }
  · exact hpix.halted hrun _ _ (.inr (.inr rfl))

/-- The operation `PHASE` names keeps the invariant (R101). -/
theorem phaseOperation_keeps_inv {i : Instr} {s t : State} (h : Inv s) (hd : decodePhase s.block.phase = .ok i)
    (he : exec i s = .next t) : Inv t := by
  cases i, hd using phaseOperation_cases with
  | idle _ hp => cases he; exact h
  | sample _ hp => exact exec_frame_operation_keeps_inv h (by rw [hp]; decide) (.inl rfl) he
  | step _ hp => exact execStep_keeps_inv h hp he
  | acquire _ hp => exact execAcquire_keeps_inv h hp he
  | xscreen _ hp => exact execXscreen_keeps_inv h hp he
  | xpal _ hp => exact execXpal_keeps_inv h hp he
  | decode _ hp => exact exec_frame_operation_keeps_inv h (by rw [hp]; decide) (.inr (.inl rfl)) he
  | composite _ hp => exact execComposite_keeps_inv h hp he
  | present _ hp => exact exec_frame_operation_keeps_inv h (by rw [hp]; decide) (.inr (.inr rfl)) he
  | wait _ hp => cases he; exact h
  | init _ hp => exact exec_init_keeps_inv h hp he
  | halt _ hp => cases he; exact h

/-! ## Events -/

/-- START: accepted in IDLE only, with all four capabilities or with its missing ones recorded (R192, R36). -/
theorem execStart_keeps_inv {cap : BitVec 4} {s t : State} (h : Inv s) (he : execStart cap s = .next t) : Inv t := by
  rcases execStart_cases he with ⟨hp, rfl, rfl⟩ | ⟨hp, _, rfl⟩ | ⟨_, rfl⟩
  · have hcause := h.no_fault (hp ▸ (by decide : Phase.idle ≠ Phase.halt))
    exact
      { h with
        phaseLegal := rfl
        alpha := fun _ => h.alpha (hp ▸ (by decide : Phase.idle ≠ Phase.init))
        faultIffHalt := iff_of_false (by decide : Phase.wait ≠ Phase.halt) (not_not.mpr hcause)
        capBefore := fun hn => absurd hn (by unfold NotStarted; decide : ¬ NotStarted Phase.wait)
        capAfter := fun _ => rfl
        startErrAfter := fun _ => missingCaps_all
        viewCurrent := fun hv => absurd hv (by decide : ¬ (Phase.wait = Phase.xscreen ∨ Phase.wait = Phase.xpal)) }
  · exact { h with startErrAfter := fun hne => absurd hp hne }
  · exact h

/-- TICK: WAIT to SAMPLE (R194). -/
theorem execTick_keeps_inv {s t : State} (h : Inv s) (he : execTick s = .next t) : Inv t := by
  rcases execTick_cases he with ⟨hp, rfl⟩ | ⟨_, rfl⟩
  · exact h.enter (by rw [hp]; decide) (by decide) (fun hv => absurd hv (by decide))
  · exact h

/-- The reset values meet the invariant beside any module of canonical form and bounded size (R50). -/
theorem inv_of_blockAfterReset {s : State} {draw : Nat} (hb : s.block = blockAfterReset s.config draw)
    (hmem : Memory.wf s.moduleNow.mem) (hsize : s.moduleNow.size ≤ 2 ^ s.config.ptrWidth) : Inv s where
  phaseLegal := by rw [hb]; rfl
  memCanonical := hmem
  moduleSizeBound := hsize
  keyLines := by rw [hb]; exact List.length_replicate
  ptrWidths := by rw [hb]; exact ⟨trunc_lt _ _, trunc_lt _ _⟩
  memSzBound := by rw [hb]; exact Nat.le_of_lt_succ (Nat.mod_lt _ (Nat.succ_pos _))
  faultInfoWidths := by rw [hb]; exact ⟨Nat.two_pow_pos _, Nat.two_pow_pos _⟩
  alpha hne := absurd (by rw [hb]; rfl) hne
  faultIffHalt := by rw [hb]; exact iff_of_false (by decide : Phase.init ≠ Phase.halt) (not_not.mpr rfl)
  faultKnown := by rw [hb]; exact .inl rfl
  faultInfoZero _ := by rw [hb]; exact ⟨rfl, rfl⟩
  capBefore _ := by rw [hb]; rfl
  capAfter hn := absurd (.inl (by rw [hb]; rfl)) hn
  startErrAfter _ := by rw [hb]; rfl
  viewCurrent hv := by
    rw [hb] at hv
    exact absurd hv (by decide : ¬ (Phase.init = Phase.xscreen ∨ Phase.init = Phase.xpal))

/-- RESET establishes the invariant (R250). -/
theorem exec_reset_inv {s t : State} (hmem : Memory.wf s.moduleNow.mem)
    (hsize : s.moduleNow.size ≤ 2 ^ s.config.ptrWidth) (he : exec .reset s = .next t) : Inv t := by
  rw [exec_reset_eq] at he
  cases he
  exact inv_of_blockAfterReset (draw := s.draws) rfl hmem hsize

/-- A key event keeps the number of lines (R120, R121). -/
theorem exec_key_keeps_inv {i : Instr} {key : KeyCode} {s t : State} (h : Inv s) (hi : i = .keydown key ∨ i = .keyup key)
    (he : exec i s = .next t) : Inv t := by
  rcases hi with rfl | rfl <;> cases he <;> exact { h with keyLines := (writeKey_length _ _ _).trans h.keyLines }

/-! ## A step -/

/-- Every step keeps the invariant. -/
theorem step_keeps_inv {s t : State} (h : Inv s) (hst : step s = .next t) : Inv t := by
  have h' : Inv { s with turns := s.turns.tail } := { h with }
  rcases step_operation_cases hst with ⟨_, rfl⟩ |
    ⟨i, _, he, ⟨cap, rfl⟩ | rfl | ⟨rfl, _⟩ | ⟨key, hi⟩ | hd⟩
  · exact h'
  · exact execStart_keeps_inv h' he
  · exact execTick_keeps_inv h' he
  · exact exec_reset_inv h'.memCanonical h'.moduleSizeBound he
  · exact exec_key_keeps_inv h' hi he
  · exact phaseOperation_keeps_inv h' hd he

/-! ## No stop under the invariant -/

/-- The operation `PHASE` names goes on under the invariant: where a copy is made the latched size is the module's, so a region
that fits is inside its memory (R62, R78). -/
theorem Inv.phaseOperation_goes_on {s : State} (h : Inv s) {i : Instr} (hd : decodePhase s.block.phase = .ok i) :
    ∃ t, exec i s = .next t := by
  have henc := encode_of_decodePhase hd
  by_cases hx : i = .xscreen
  · subst hx
    have hsize := h.viewCurrent (.inl (OpWord.phase.inj henc).symm)
    rcases Nat.lt_or_ge s.block.memSz (s.block.screenPtr + 76800) with hout | hfit
    · exact ⟨_, exec_xscreen_oob hout⟩
    · exact ⟨_, exec_xscreen_copies hfit (hsize ▸ hfit)⟩
  by_cases hl : i = .xpal
  · subst hl
    have hsize := h.viewCurrent (.inr (OpWord.phase.inj henc).symm)
    rcases Nat.lt_or_ge s.block.memSz (s.block.palettePtr + 64) with hout | hfit
    · exact ⟨_, exec_xpal_oob hout⟩
    · exact ⟨_, exec_xpal_copies hfit (hsize ▸ hfit)⟩
  · exact exec_goes_on hx hl s

/-- A step goes on where the operation `PHASE` names does: an event's operation makes no copy, and a legal code is not refused
(R105, R108). -/
theorem step_goes_on {s : State} (hl : phaseCodeLegal s.block.phase = true)
    (hex : ∀ i, decodePhase s.block.phase = .ok i → ∃ t, exec i { s with turns := s.turns.tail } = .next t) :
    ∃ t, step s = .next t := by
  rcases fetch_fst_cases s with ⟨code, cap, hf, _⟩ | ⟨word, hf, _⟩ | ⟨hf, _⟩
  · rcases eq_or_ne code HostEvent.reset with rfl | hc
    · exact ⟨_, step_of_decode_ok (by rw [hf]; rfl)⟩
    · rcases step_of_hostEvent hf hc with hst | hst | hst
      · exact ⟨_, hst⟩
      · exact ⟨_, hst⟩
      · exact ⟨_, hst⟩
  · rw [step_of_decode_ok (by rw [hf]; rfl), keyEvent_eq]
    exact ⟨_, rfl⟩
  · obtain ⟨i, hi⟩ := (decodePhase_legal _).mpr hl
    rw [step_of_decode_ok (by rw [hf]; exact hi)]
    exact hex i hi

/-- A step goes on under the invariant. -/
theorem Inv.step_goes_on {s : State} (h : Inv s) : ∃ t, step s = .next t ∧ Inv t := by
  have h' : Inv { s with turns := s.turns.tail } := { h with }
  obtain ⟨t, ht⟩ := Machine.step_goes_on h.phaseLegal fun i hd => h'.phaseOperation_goes_on hd
  exact ⟨t, ht, step_keeps_inv h ht⟩

/-! ## The obligations -/

/-- Settles O43: no event keeps the state, and each event and each phase operation keeps the invariant. -/
theorem everyStepKeepsTheInvariant : Obligations.EveryStepKeepsTheInvariant := by
  unfold Obligations.EveryStepKeepsTheInvariant
  exact fun s t h hst => step_keeps_inv h hst

/-- Settles O44: the reset values meet the invariant, beside no module and beside any bounded canonical one. -/
theorem resetMeetsTheInvariant : Obligations.ResetMeetsTheInvariant := by
  unfold Obligations.ResetMeetsTheInvariant
  refine ⟨?inv, ?trace, fun s t hmem hsize he => exec_reset_inv hmem hsize he⟩
  case inv => exact inv_of_blockAfterReset (draw := 0) rfl (by decide) (by decide)
  case trace => exact ⟨trivial, fun hp => absurd hp (by decide), fun hp => absurd hp (by decide)⟩

/-- Settles O45: under the invariant every step goes on and keeps it. -/
theorem noRunFromTheInvariantStops : Obligations.NoRunFromTheInvariantStops := by
  unfold Obligations.NoRunFromTheInvariantStops
  intro k s h
  obtain ⟨t, ht, _⟩ := run_goes_on (fun _ => Inv.step_goes_on) k s h
  exact ⟨t, ht⟩

end Sys2Proof.Machine
end

section
/-! Proofs for the observable trace: every output may follow the one before it, in every step and in every run (R16, R196, R198,
R226, R227). -/

namespace Sys2Proof.Machine

/-! ## Which output may follow which -/

/-- The phases between a start or a `Present` and the next `StepReq`. -/
abbrev BeforeStep (p : BitVec 4) : Prop := p = Phase.wait ∨ p = Phase.sample ∨ p = Phase.step

/-- The phases between a `StepReq` and the `Present` of its frame. -/
abbrev AfterStep (p : BitVec 4) : Prop :=
  p = Phase.acquire ∨ p = Phase.xscreen ∨ p = Phase.xpal ∨ p = Phase.decode ∨ p = Phase.composite ∨ p = Phase.present

/-- A `StartStatus` may follow anything (R192). -/
theorem mayFollow_startStatus (last : Option Output) (ok : Bool) : mayFollow last (.startStatus ok) := by
  unfold mayFollow
  split <;> trivial

/-- An output may be appended where it may follow the last one. -/
theorem traceOrdered_append {last : Option Output} {trace : List Output} {o : Output} (h : TraceOrdered last trace)
    (ho : mayFollow (trace.getLast?.or last) o) : TraceOrdered last (trace ++ [o]) := by
  induction trace generalizing last with
  | nil => exact ⟨ho, trivial⟩
  | cons a rest ih =>
    obtain ⟨ha, hrest⟩ := h
    refine ⟨ha, ih hrest ?_⟩
    cases rest with
    | nil => exact ho
    | cons b rest => simpa [List.getLast?_cons_cons, List.getLast?_cons] using ho

/-! ## Moves that keep the order -/

/-- A move without output that stays before, or stays after, the `StepReq` of its frame. -/
theorem TraceInv.moved {s t : State} (h : TraceInv s) (htrace : t.trace = s.trace)
    (hb : BeforeStep t.block.phase → BeforeStep s.block.phase) (ha : AfterStep t.block.phase → AfterStep s.block.phase) :
    TraceInv t where
  ordered := htrace ▸ h.ordered
  beforeStep hp := htrace ▸ h.beforeStep (hb hp)
  afterStep hp := htrace ▸ h.afterStep (ha hp)

/-- A move without output within a frame. -/
theorem TraceInv.in_frame {s t : State} (h : TraceInv s) (hs : AfterStep s.block.phase) (ht : AfterStep t.block.phase)
    (htrace : t.trace = s.trace) : TraceInv t :=
  have hnot : ∀ p : BitVec 4, AfterStep p → ¬ BeforeStep p := by decide
  h.moved htrace (fun hb => absurd hb (hnot _ ht)) (fun _ => hs)

/-- An output that may follow the last one, and after which the phase is the one it leads to. -/
theorem TraceInv.emitted {s t : State} {o : Output} (h : TraceInv s) (htrace : t.trace = s.trace ++ [o])
    (ho : mayFollow s.trace.getLast? o)
    (hb : BeforeStep t.block.phase → o = .startStatus true ∨ ∃ frame, o = .present frame)
    (ha : AfterStep t.block.phase → ∃ p1 p2, o = .stepReq p1 p2) : TraceInv t where
  ordered := htrace ▸ traceOrdered_append h.ordered (by simpa using ho)
  beforeStep hp := by simpa [htrace] using hb hp
  afterStep hp := by simpa [htrace] using ha hp

/-- Before a frame's `StepReq` the trace ends where one may follow (R196). -/
theorem TraceInv.stepReq_mayFollow {s : State} (h : TraceInv s) (hp : BeforeStep s.block.phase) (p1 p2 : Nat) :
    mayFollow s.trace.getLast? (.stepReq p1 p2) := by
  rcases h.beforeStep hp with hlast | ⟨frame, hlast⟩ <;> rw [hlast] <;> trivial

/-- Within a frame the halt entry's `Fault` follows the `StepReq` (R225, R226). -/
theorem TraceInv.faulted {s : State} (h : TraceInv s) (hp : AfterStep s.block.phase) (c : BitVec 3) (i0 i1 : Nat) :
    TraceInv (haltEntry c i0 i1 s) := by
  obtain ⟨p1, p2, hlast⟩ := h.afterStep hp
  exact h.emitted rfl (hlast ▸ trivial) (fun hb => absurd hb (by decide : ¬ BeforeStep Phase.halt))
    (fun ha => absurd ha (by decide : ¬ AfterStep Phase.halt))

/-! ## The operations -/

/-- STEP: with its capability it emits nothing while it hangs, and a `StepReq` that may follow when it returns (R196, R197). -/
theorem execStep_keeps_traceInv {s t : State} (h : TraceInv s) (hp : s.block.phase = Phase.step)
    (hcap : s.block.cap = 0b1111#4) (he : execStep s = .next t) : TraceInv t := by
  rcases execStep_cases he with ⟨hmiss, _⟩ | ⟨_, _, rfl⟩ | ⟨m, rest, _, _, rfl⟩
  · rw [hcap] at hmiss; cases hmiss
  · exact h
  · exact h.emitted rfl (h.stepReq_mayFollow (.inr (.inr hp)) _ _)
      (fun hb => absurd hb (by decide : ¬ BeforeStep Phase.acquire)) (fun _ => ⟨_, _, rfl⟩)

/-- ACQUIRE: with its capabilities it emits nothing (R140). -/
theorem execAcquire_keeps_traceInv {s t : State} (h : TraceInv s) (hp : AfterStep s.block.phase)
    (hcap : s.block.cap = 0b1111#4) (he : execAcquire s = .next t) : TraceInv t := by
  rcases execAcquire_cases he with ⟨hmiss, _⟩ | ⟨m, rest, _, _, rfl⟩
  · rw [hcap] at hmiss; cases hmiss
  · exact h.in_frame hp (by decide : AfterStep Phase.xscreen) rfl

/-- XSCREEN and XPAL emit nothing or the `Fault` of their frame (R142, R144). -/
theorem copy_keeps_traceInv {i : Instr} {s t : State} (h : TraceInv s) (hp : AfterStep s.block.phase)
    (hi : i = .xscreen ∨ i = .xpal) (he : exec i s = .next t) : TraceInv t := by
  rcases hi with rfl | rfl
  · rcases execXscreen_cases he with ⟨_, rfl⟩ | ⟨bytes, _, _, rfl⟩
    · exact h.faulted hp _ _ _
    · exact h.in_frame hp (by decide : AfterStep Phase.xpal) rfl
  · rcases execXpal_cases he with ⟨_, rfl⟩ | ⟨bytes, _, _, rfl⟩
    · exact h.faulted hp _ _ _
    · exact h.in_frame hp (by decide : AfterStep Phase.decode) rfl

/-- COMPOSITE emits nothing or the `Fault` of its frame (R177, R178). -/
theorem execComposite_keeps_traceInv {s t : State} (h : TraceInv s) (hp : AfterStep s.block.phase)
    (he : execComposite s = .next t) : TraceInv t := by
  rcases execComposite_cases he with ⟨_, rfl⟩ | ⟨i, x, _, _, _, rfl⟩
  · exact h.in_frame hp (by decide : AfterStep Phase.present) rfl
  · have hpix : TraceInv { s with block := { s.block with pix := compositePix s.block } } := { h with }
    exact hpix.faulted hp _ _ _

/-- PRESENT emits the `Present` that follows its frame's `StepReq` (R198). -/
theorem exec_present_keeps_traceInv {s t : State} (h : TraceInv s) (hp : AfterStep s.block.phase)
    (he : exec .present s = .next t) : TraceInv t := by
  rw [exec_present_eq] at he
  cases he
  obtain ⟨p1, p2, hlast⟩ := h.afterStep hp
  exact h.emitted rfl (hlast ▸ trivial) (fun _ => .inr ⟨_, rfl⟩) (fun ha => absurd ha (by decide : ¬ AfterStep Phase.wait))

/-- The operation `PHASE` names keeps the order; the invariant says that no capability is missing (R196 to R198). -/
theorem phaseOperation_keeps_traceInv {i : Instr} {s t : State} (hinv : Inv s) (h : TraceInv s)
    (hd : decodePhase s.block.phase = .ok i) (he : exec i s = .next t) : TraceInv t := by
  have hcap (hr : Running s.block.phase) := hinv.capAfter hr.started
  cases i, hd using phaseOperation_cases with
  | idle _ hp => cases he; exact h
  | sample _ hp =>
    cases he
    exact h.moved rfl (fun _ => .inr (.inl hp)) (fun ha => absurd ha (by decide : ¬ AfterStep Phase.step))
  | step _ hp => exact execStep_keeps_traceInv h hp (hcap (by rw [hp]; decide)) he
  | acquire _ hp => exact execAcquire_keeps_traceInv h (by rw [hp]; decide) (hcap (by rw [hp]; decide)) he
  | xscreen _ hp => exact copy_keeps_traceInv h (by rw [hp]; decide) (.inl rfl) he
  | xpal _ hp => exact copy_keeps_traceInv h (by rw [hp]; decide) (.inr rfl) he
  | decode _ hp =>
    cases he
    exact h.in_frame (by rw [hp]; decide) (by decide : AfterStep Phase.composite) rfl
  | composite _ hp => exact execComposite_keeps_traceInv h (by rw [hp]; decide) he
  | present _ hp => exact exec_present_keeps_traceInv h (by rw [hp]; decide) he
  | wait _ hp => cases he; exact h
  | init _ hp =>
    rw [exec_init_eq] at he
    cases he
    exact h.moved rfl (fun hb => absurd hb (by decide : ¬ BeforeStep Phase.idle))
      (fun ha => absurd ha (by decide : ¬ AfterStep Phase.idle))
  | halt _ hp => cases he; exact h

/-- START emits a `StartStatus`, which may follow anything, or is ignored (R192). -/
theorem execStart_keeps_traceInv {cap : BitVec 4} {s t : State} (h : TraceInv s) (he : execStart cap s = .next t) :
    TraceInv t := by
  rcases execStart_cases he with ⟨_, _, rfl⟩ | ⟨hp, _, rfl⟩ | ⟨_, rfl⟩
  · exact h.emitted rfl (mayFollow_startStatus _ _) (fun _ => .inl rfl)
      (fun ha => absurd ha (by decide : ¬ AfterStep Phase.wait))
  · exact h.emitted rfl (mayFollow_startStatus _ _) (fun hb => absurd (hp ▸ hb) (by decide : ¬ BeforeStep Phase.idle))
      (fun ha => absurd (hp ▸ ha) (by decide : ¬ AfterStep Phase.idle))
  · exact h

/-- TICK emits nothing (R194). -/
theorem execTick_keeps_traceInv {s t : State} (h : TraceInv s) (he : execTick s = .next t) : TraceInv t := by
  rcases execTick_cases he with ⟨hp, rfl⟩ | ⟨_, rfl⟩
  · exact h.moved rfl (fun _ => .inl hp) (fun ha => absurd ha (by decide : ¬ AfterStep Phase.sample))
  · exact h

/-- Every step keeps the order of the outputs. -/
theorem step_keeps_traceInv {s t : State} (hinv : Inv s) (h : TraceInv s) (hst : step s = .next t) : TraceInv t := by
  have hinv' : Inv { s with turns := s.turns.tail } := { hinv with }
  have h' : TraceInv { s with turns := s.turns.tail } := { h with }
  rcases step_operation_cases hst with ⟨_, rfl⟩ |
    ⟨i, _, he, ⟨cap, rfl⟩ | rfl | ⟨rfl, _⟩ | ⟨key, hi⟩ | hd⟩
  · exact h'
  · exact execStart_keeps_traceInv h' he
  · exact execTick_keeps_traceInv h' he
  · rw [exec_reset_eq] at he
    cases he
    exact h.moved rfl (fun hb => absurd hb (by decide : ¬ BeforeStep Phase.init))
      (fun ha => absurd ha (by decide : ¬ AfterStep Phase.init))
  · rcases hi with rfl | rfl <;> cases he <;> exact { h with }
  · exact phaseOperation_keeps_traceInv hinv' h' hd he

/-! ## The obligations -/

/-- Settles O57: each operation's output may follow what the phase says was the last. -/
theorem everyStepKeepsTheTraceInOrder : Obligations.EveryStepKeepsTheTraceInOrder := by
  unfold Obligations.EveryStepKeepsTheTraceInOrder
  exact fun s t hinv h hst => step_keeps_traceInv hinv h hst

/-- Settles O50: the order holds of the empty trace in INIT, and every step keeps it together with the invariant. -/
theorem traceIsASequenceOfFrames : Obligations.TraceIsASequenceOfFrames := by
  unfold Obligations.TraceIsASequenceOfFrames
  intro k s t hp hinv htrace hrun
  have hstart : TraceInv s :=
    ⟨htrace ▸ trivial, fun hb => absurd (hp ▸ hb) (by decide : ¬ BeforeStep Phase.init),
      fun ha => absurd (hp ▸ ha) (by decide : ¬ AfterStep Phase.init)⟩
  have hkept := run_induction (P := fun u => Inv u ∧ TraceInv u)
    (fun _ _ hu hst => ⟨step_keeps_inv hu.1 hst, step_keeps_traceInv hu.1 hu.2 hst⟩) k s t ⟨hinv, hstart⟩ hrun
  exact hkept.2.ordered

end Sys2Proof.Machine
end

section
/-! Proofs for what can still matter: a step reads nothing but the elements that are live at its phase, so unspecified reset
content never reaches an output (R48, R85, R252). -/

namespace Sys2Proof.Machine

/-! ## Agreement at one phase -/

/-- States that agree on what is live agree on every element that is always so. -/
theorem SameLive.same {s t : State} (h : SameLive s t) : SameButUnspecified s t := { h with }

/-- Agreement at the phase `p`: the elements live at `p` are asked for, the others are not live there. -/
theorem SameButUnspecified.sameLive {s t : State} (h : SameButUnspecified s t) (p : BitVec 4) (hp : s.block.phase = p)
    (alpha : p ≠ Phase.init → ∀ i, i < Config.nPix → s.block.pix[4 * i + 3]? = t.block.pix[4 * i + 3]?)
    (masks : p = Phase.step → s.block.p1Mask = t.block.p1Mask ∧ s.block.p2Mask = t.block.p2Mask := by
      exact fun hq => absurd hq (by decide))
    (screenPtr : p = Phase.xscreen → s.block.screenPtr = t.block.screenPtr := by exact fun hq => absurd hq (by decide))
    (view : p = Phase.xscreen ∨ p = Phase.xpal → s.block.palettePtr = t.block.palettePtr ∧ s.block.memSz = t.block.memSz := by
      exact fun hq => absurd hq (by decide))
    (scr : p = Phase.xpal ∨ p = Phase.decode ∨ p = Phase.composite → s.block.scr = t.block.scr := by
      exact fun hq => absurd hq (by decide))
    (pal : p = Phase.decode → s.block.pal = t.block.pal := by exact fun hq => absurd hq (by decide))
    (ct : p = Phase.composite → s.block.ct = t.block.ct := by exact fun hq => absurd hq (by decide))
    (pix : p = Phase.present → s.block.pix = t.block.pix := by exact fun hq => absurd hq (by decide)) : SameLive s t := by
  subst hp
  exact { h with masks, screenPtr, view, scr, pal, ct, alpha, pix }

/-- The halt entry leaves agreeing states in agreement: in HALT nothing of a frame is live (R225, R227). -/
theorem SameLive.halted {s t : State} (h : SameLive s t) (hp : s.block.phase ≠ Phase.init) (c : BitVec 3) (i0 i1 : Nat) :
    SameLive (haltEntry c i0 i1 s) (haltEntry c i0 i1 t) := by
  have hsame : SameButUnspecified (haltEntry c i0 i1 s) (haltEntry c i0 i1 t) :=
    { h.same with
      phase := rfl
      faultCause := rfl
      faultInfo0 := congrArg (fun cfg : Config => trunc (cfg.ptrWidth + 1) i0) h.config
      faultInfo1 := congrArg (fun cfg : Config => trunc (cfg.ptrWidth + 1) i1) h.config
      trace := congrArg (fun out : List Output => out ++ [.fault c i0 i1]) h.trace }
  exact hsame.sameLive Phase.halt rfl fun _ => h.alpha hp

/-! ## The phase operations -/

/-- SAMPLE reads the key lines and the binding (R123). -/
theorem sample_sameLive {s₁ s₂ t₁ : State} (h : SameLive s₁ s₂) (hp : s₁.block.phase = Phase.sample)
    (he : exec .sample s₁ = .next t₁) : ∃ t₂, exec .sample s₂ = .next t₂ ∧ SameLive t₁ t₂ := by
  rw [exec_sample_eq] at he
  cases he
  refine ⟨_, exec_sample_eq s₂, SameButUnspecified.sameLive { h.same with phase := rfl } Phase.step rfl ?alpha ?masks⟩
  case alpha => exact fun _ => h.alpha (by rw [hp]; decide)
  case masks => exact fun _ => ⟨by rw [h.config, h.keys], by rw [h.config, h.keys]⟩

/-- STEP reads the masks, `CAP` and the script (R196). -/
theorem step_sameLive {s₁ s₂ t₁ : State} (h : SameLive s₁ s₂) (hp : s₁.block.phase = Phase.step)
    (he : exec .step s₁ = .next t₁) : ∃ t₂, exec .step s₂ = .next t₂ ∧ SameLive t₁ t₂ := by
  have hne : s₁.block.phase ≠ Phase.init := by rw [hp]; decide
  obtain ⟨hm1, hm2⟩ := h.masks hp
  rcases execStep_cases he with ⟨hcap, rfl⟩ | ⟨hcap, hr, rfl⟩ | ⟨m, rest, hcap, hr, rfl⟩ <;> rw [h.cap] at hcap
  · rw [h.cap]
    exact ⟨_, exec_step_missing hcap, h.halted hne _ _ _⟩
  · exact ⟨_, exec_step_pending hcap (h.stepReturns ▸ hr), h⟩
  · refine ⟨_, exec_step_returns hcap (h.stepReturns ▸ hr),
      SameButUnspecified.sameLive ?_ Phase.acquire rfl fun _ => h.alpha hne⟩
    exact { h.same with
      phase := rfl
      moduleNow := congrArg (fun cfg : Config => m.landed cfg.ptrWidth) h.config
      stepReturns := rfl
      trace := by rw [hm1, hm2, h.trace] }

/-- ACQUIRE reads `CAP`, the module and the script (R140). -/
theorem acquire_sameLive {s₁ s₂ t₁ : State} (h : SameLive s₁ s₂) (hp : s₁.block.phase = Phase.acquire)
    (he : exec .acquire s₁ = .next t₁) : ∃ t₂, exec .acquire s₂ = .next t₂ ∧ SameLive t₁ t₂ := by
  have hne : s₁.block.phase ≠ Phase.init := by rw [hp]; decide
  rcases execAcquire_cases he with ⟨hcap, rfl⟩ | ⟨m, rest, hcap, hm, rfl⟩ <;> rw [h.cap] at hcap
  · rw [h.cap]
    exact ⟨_, exec_acquire_missing hcap, h.halted hne _ _ _⟩
  · rw [h.queryReturns, h.moduleNow, h.config] at hm
    refine ⟨_, exec_acquire_eq hcap hm, SameButUnspecified.sameLive ?_ Phase.xscreen rfl (fun _ => h.alpha hne)
      (screenPtr := fun _ => ?_) (view := fun _ => ?_)⟩
    · exact { h.same with phase := rfl, moduleNow := rfl, queryReturns := rfl }
    · exact congrArg (fun cfg : Config => trunc cfg.ptrWidth m.screenPtr) h.config
    · exact ⟨congrArg (fun cfg : Config => trunc cfg.ptrWidth m.palettePtr) h.config,
        congrArg (fun cfg : Config => trunc (cfg.ptrWidth + 1) m.size) h.config⟩

/-- XSCREEN reads the screen pointer, the size and the module (R142). -/
theorem xscreen_sameLive {s₁ s₂ t₁ : State} (h : SameLive s₁ s₂) (hp : s₁.block.phase = Phase.xscreen)
    (he : exec .xscreen s₁ = .next t₁) : ∃ t₂, exec .xscreen s₂ = .next t₂ ∧ SameLive t₁ t₂ := by
  have hne : s₁.block.phase ≠ Phase.init := by rw [hp]; decide
  have hptr := h.screenPtr hp
  obtain ⟨hpal, hsize⟩ := h.view (.inl hp)
  rcases execXscreen_cases he with ⟨hout, rfl⟩ | ⟨bytes, hfit, hread, rfl⟩
  · rw [hptr, hsize] at hout ⊢
    exact ⟨_, exec_xscreen_oob hout, h.halted hne _ _ _⟩
  · rw [hptr, hsize] at hfit
    rw [hptr, h.moduleNow] at hread
    exact ⟨_, exec_xscreen_reads hfit hread, SameButUnspecified.sameLive { h.same with phase := rfl } Phase.xpal rfl
      (fun _ => h.alpha hne) (view := fun _ => ⟨hpal, hsize⟩) (scr := fun _ => rfl)⟩

/-- XPAL reads the palette pointer, the size and the module (R144). -/
theorem xpal_sameLive {s₁ s₂ t₁ : State} (h : SameLive s₁ s₂) (hp : s₁.block.phase = Phase.xpal)
    (he : exec .xpal s₁ = .next t₁) : ∃ t₂, exec .xpal s₂ = .next t₂ ∧ SameLive t₁ t₂ := by
  have hne : s₁.block.phase ≠ Phase.init := by rw [hp]; decide
  have hscr := h.scr (.inl hp)
  obtain ⟨hptr, hsize⟩ := h.view (.inr hp)
  rcases execXpal_cases he with ⟨hout, rfl⟩ | ⟨bytes, hfit, hread, rfl⟩
  · rw [hptr, hsize] at hout ⊢
    exact ⟨_, exec_xpal_oob hout, h.halted hne _ _ _⟩
  · rw [hptr, hsize] at hfit
    rw [hptr, h.moduleNow] at hread
    exact ⟨_, exec_xpal_reads hfit hread, SameButUnspecified.sameLive { h.same with phase := rfl } Phase.decode rfl
      (fun _ => h.alpha hne) (scr := fun _ => hscr) (pal := fun _ => rfl)⟩

/-- DECODE reads the palette copy and `GREEN` (R160). -/
theorem decode_sameLive {s₁ s₂ t₁ : State} (h : SameLive s₁ s₂) (hp : s₁.block.phase = Phase.decode)
    (he : exec .decode s₁ = .next t₁) : ∃ t₂, exec .decode s₂ = .next t₂ ∧ SameLive t₁ t₂ := by
  have hscr := h.scr (.inr (.inl hp))
  rw [exec_decode_eq] at he
  cases he
  exact ⟨_, exec_decode_eq s₂, SameButUnspecified.sameLive { h.same with phase := rfl } Phase.composite rfl
    (fun _ => h.alpha (by rw [hp]; decide)) (scr := fun _ => hscr) (ct := fun _ => by rw [h.config, h.pal hp])⟩

/-- COMPOSITE's `PIX` on valid indices is given by the screen, the table and the alpha bytes (R177, R179). -/
theorem compositePix_congr {b c : Block} (hscr : b.scr = c.scr) (hct : b.ct = c.ct)
    (halpha : ∀ i, i < Config.nPix → b.pix[4 * i + 3]? = c.pix[4 * i + 3]?)
    (hvalid : ∀ (i : Nat) (x : Byte), b.scr[i]? = some x → x.toNat ≤ 31) : compositePix b = compositePix c := by
  apply buffer_ext
  intro j hj
  simp only [Config.pixBytes] at hj
  have hi : j / 4 < Config.nPix := by simp only [Config.nPix]; omega
  obtain ⟨x, hx⟩ := buffer_getElem?_isSome b.scr hi
  obtain ⟨e, he⟩ := buffer_getElem?_isSome b.ct (Nat.lt_succ_of_le (hvalid _ x hx))
  obtain ⟨hr, hg, hb, ha⟩ := compositePix_pixel b _ x e hx he fun k y _ hy => hvalid k y hy
  obtain ⟨hr', hg', hb', ha'⟩ := compositePix_pixel c _ x e (hscr ▸ hx) (hct ▸ he) fun k y _ hy => hvalid k y (hscr ▸ hy)
  have hbyte : j = 4 * (j / 4) ∨ j = 4 * (j / 4) + 1 ∨ j = 4 * (j / 4) + 2 ∨ j = 4 * (j / 4) + 3 := by omega
  rcases hbyte with hj | hj | hj | hj <;> rw [hj]
  · rw [hr, hr']
  · rw [hg, hg']
  · rw [hb, hb']
  · rw [ha, ha', halpha _ hi]

/-- COMPOSITE reads the screen copy, the table and the alpha bytes (R177, R178). -/
theorem composite_sameLive {s₁ s₂ t₁ : State} (h : SameLive s₁ s₂) (hp : s₁.block.phase = Phase.composite)
    (he : exec .composite s₁ = .next t₁) : ∃ t₂, exec .composite s₂ = .next t₂ ∧ SameLive t₁ t₂ := by
  have hne : s₁.block.phase ≠ Phase.init := by rw [hp]; decide
  have hscr := h.scr (.inr (.inr hp))
  rcases execComposite_cases he with ⟨hvalid, rfl⟩ | ⟨i, x, hi, hx, hlow, rfl⟩
  · have hpix := compositePix_congr hscr (h.ct hp) (h.alpha hne) hvalid
    exact ⟨_, execComposite_valid s₂ (hscr ▸ hvalid),
      SameButUnspecified.sameLive { h.same with phase := rfl } Phase.present rfl (fun _ _ _ => congrArg (·[_]?) hpix) (pix := fun _ => hpix)⟩
  · have hpix : SameLive { s₁ with block := { s₁.block with pix := compositePix s₁.block } }
        { s₂ with block := { s₂.block with pix := compositePix s₂.block } } := by
      refine SameButUnspecified.sameLive { h.same with } Phase.composite hp (fun _ j hj => ?_) (scr := fun _ => hscr)
        (ct := fun _ => h.ct hp)
      rw [compositePix_alpha _ _ (by omega), compositePix_alpha _ _ (by omega)]
      exact h.alpha hne j hj
    exact ⟨_, execComposite_invalid s₂ i x (hscr ▸ hi) hx (hscr ▸ hlow), hpix.halted hne _ _ _⟩

/-- PRESENT reads all of `PIX` (R198). -/
theorem present_sameLive {s₁ s₂ t₁ : State} (h : SameLive s₁ s₂) (hp : s₁.block.phase = Phase.present)
    (he : exec .present s₁ = .next t₁) : ∃ t₂, exec .present s₂ = .next t₂ ∧ SameLive t₁ t₂ := by
  rw [exec_present_eq] at he
  cases he
  refine ⟨_, exec_present_eq s₂, SameButUnspecified.sameLive ?_ Phase.wait rfl fun _ => h.alpha (by rw [hp]; decide)⟩
  exact { h.same with phase := rfl, trace := by rw [h.trace, h.pix hp] }

/-- INIT reads no element that is live after it (R175). -/
theorem init_sameLive {s₁ s₂ t₁ : State} (h : SameLive s₁ s₂) (he : exec .init s₁ = .next t₁) :
    ∃ t₂, exec .init s₂ = .next t₂ ∧ SameLive t₁ t₂ := by
  rw [exec_init_eq] at he
  cases he
  exact ⟨_, exec_init_eq s₂, SameButUnspecified.sameLive { h.same with phase := rfl } Phase.idle rfl
    fun _ i hi => (initPix_alphaFull _ i hi).trans (initPix_alphaFull _ i hi).symm⟩

/-- The operation `PHASE` names keeps the agreement on what is live. -/
theorem phaseOperation_sameLive {i : Instr} {s₁ s₂ t₁ : State} (h : SameLive s₁ s₂)
    (hd : decodePhase s₁.block.phase = .ok i) (he : exec i s₁ = .next t₁) :
    ∃ t₂, exec i s₂ = .next t₂ ∧ SameLive t₁ t₂ := by
  cases i, hd using phaseOperation_cases with
  | idle _ hp => cases he; exact ⟨s₂, rfl, h⟩
  | sample _ hp => exact sample_sameLive h hp he
  | step _ hp => exact step_sameLive h hp he
  | acquire _ hp => exact acquire_sameLive h hp he
  | xscreen _ hp => exact xscreen_sameLive h hp he
  | xpal _ hp => exact xpal_sameLive h hp he
  | decode _ hp => exact decode_sameLive h hp he
  | composite _ hp => exact composite_sameLive h hp he
  | present _ hp => exact present_sameLive h hp he
  | wait _ hp => cases he; exact ⟨s₂, rfl, h⟩
  | init _ hp => exact init_sameLive h he
  | halt _ hp => cases he; exact ⟨s₂, rfl, h⟩

/-! ## Events -/

/-- START reads `PHASE` only (R192). -/
theorem start_sameLive {cap : BitVec 4} {s₁ s₂ t₁ : State} (h : SameLive s₁ s₂) (he : exec (.start cap) s₁ = .next t₁) :
    ∃ t₂, exec (.start cap) s₂ = .next t₂ ∧ SameLive t₁ t₂ := by
  rcases execStart_cases he with ⟨hp, rfl, rfl⟩ | ⟨hp, hcap, rfl⟩ | ⟨hp, rfl⟩
  · refine ⟨_, exec_start_accepted (h.phase ▸ hp), SameButUnspecified.sameLive ?_ Phase.wait rfl
      fun _ => h.alpha (by rw [hp]; decide)⟩
    exact { h.same with
      startErr := missingCaps_all
      cap := rfl
      phase := rfl
      trace := congrArg (· ++ [.startStatus true]) h.trace }
  · refine ⟨_, exec_start_failed (h.phase ▸ hp) hcap, ?_⟩
    exact { h with startErr := rfl, trace := congrArg (· ++ [.startStatus false]) h.trace }
  · exact ⟨s₂, exec_start_ignored cap (h.phase ▸ hp), h⟩

/-- TICK reads `PHASE` only (R194). -/
theorem tick_sameLive {s₁ s₂ t₁ : State} (h : SameLive s₁ s₂) (he : exec .tick s₁ = .next t₁) :
    ∃ t₂, exec .tick s₂ = .next t₂ ∧ SameLive t₁ t₂ := by
  rcases execTick_cases he with ⟨hp, rfl⟩ | ⟨hp, rfl⟩
  · exact ⟨_, exec_tick_accepted (h.phase ▸ hp), SameButUnspecified.sameLive { h.same with phase := rfl } Phase.sample rfl
      fun _ => h.alpha (by rw [hp]; decide)⟩
  · exact ⟨s₂, exec_tick_ignored (h.phase ▸ hp), h⟩

/-- RESET reads the configuration only: what it leaves unspecified is not live in INIT (R250, R252). -/
theorem reset_sameLive {s₁ s₂ t₁ : State} (h : SameLive s₁ s₂) (he : exec .reset s₁ = .next t₁) :
    ∃ t₂, exec .reset s₂ = .next t₂ ∧ SameLive t₁ t₂ := by
  rw [exec_reset_eq] at he
  cases he
  refine ⟨_, exec_reset_eq s₂, SameButUnspecified.sameLive ?_ Phase.init rfl fun hne => absurd rfl hne⟩
  exact { h.same with
    keys := congrArg (fun cfg : Config => List.replicate cfg.nKeys false) h.config
    phase := rfl
    cap := rfl
    startErr := rfl
    faultCause := rfl
    faultInfo0 := rfl
    faultInfo1 := rfl }

/-- A key event reads the key lines only (R120, R121). -/
theorem key_sameLive {i : Instr} {key : KeyCode} {s₁ s₂ t₁ : State} (h : SameLive s₁ s₂)
    (hi : i = .keydown key ∨ i = .keyup key) (he : exec i s₁ = .next t₁) : ∃ t₂, exec i s₂ = .next t₂ ∧ SameLive t₁ t₂ := by
  rcases hi with rfl | rfl <;> cases he
  · exact ⟨_, rfl, { h with keys := congrArg (writeKey · key true) h.keys }⟩
  · exact ⟨_, rfl, { h with keys := congrArg (writeKey · key false) h.keys }⟩

/-! ## A step -/

/-- The word of a step is given by the turns and `PHASE` (R30). -/
theorem fetch_congr {s t : State} (hturns : s.turns = t.turns) (hphase : s.block.phase = t.block.phase) :
    s.fetch.1 = t.fetch.1 := by
  unfold State.fetch
  rw [← hturns, ← hphase]
  cases s.turns with
  | nil => rfl
  | cons turn rest => cases turn <;> rfl

/-- A step keeps the agreement on what is live: both states fetch one word, and its operation reads nothing else. -/
theorem step_keeps_sameLive {s₁ s₂ t₁ : State} (h : SameLive s₁ s₂) (hst : step s₁ = .next t₁) :
    ∃ t₂, step s₂ = .next t₂ ∧ SameLive t₁ t₂ := by
  have h' : SameLive { s₁ with turns := s₁.turns.tail } { s₂ with turns := s₂.turns.tail } :=
    { h with turns := congrArg List.tail h.turns }
  have hfetch := fetch_congr h.turns h.phase
  rcases step_operation_cases hst with ⟨hnone, rfl⟩ | ⟨i, hi, he, hfrom⟩
  · exact ⟨_, step_of_noEvent (hfetch ▸ decode_noEvent_of_step hst hnone), h'⟩
  · rw [step_of_decode_ok (hfetch ▸ decode_of_nextInstr hi)]
    rcases hfrom with ⟨cap, rfl⟩ | rfl | ⟨rfl, _⟩ | ⟨key, hkey⟩ | hd
    · exact start_sameLive h' he
    · exact tick_sameLive h' he
    · exact reset_sameLive h' he
    · exact key_sameLive h' hkey he
    · exact phaseOperation_sameLive h' hd he

/-- Runs of states that agree on what is live go on together. -/
theorem run_keeps_sameLive {k : Nat} {s₁ s₂ t₁ : State} (h : SameLive s₁ s₂)
    (hrun : Host.Core.run Sys2Proof.core k s₁ = .next t₁) :
    ∃ t₂, Host.Core.run Sys2Proof.core k s₂ = .next t₂ ∧ SameLive t₁ t₂ := by
  induction k generalizing s₁ s₂ with
  | zero => cases hrun; exact ⟨s₂, rfl, h⟩
  | succ k ih =>
    obtain ⟨u₁, hu₁, hrest⟩ := run_succ_inv hrun
    obtain ⟨u₂, hu₂, hu⟩ := step_keeps_sameLive h hu₁
    obtain ⟨t₂, ht₂, ht⟩ := ih hu hrest
    exact ⟨t₂, (run_succ k s₂ u₂ hu₂).trans ht₂, ht⟩

/-! ## The obligations -/

/-- Settles O51: one word is fetched in both states, and each operation reads only what is live at its phase. -/
theorem onlyLiveElementsDetermineTheNextStep : Obligations.OnlyLiveElementsDetermineTheNextStep := by
  unfold Obligations.OnlyLiveElementsDetermineTheNextStep
  exact fun s₁ s₂ t₁ h hst => step_keeps_sameLive h hst

/-- Settles O52: in INIT none of the unspecified elements is live, so the states agree on what is, and so do their runs. -/
theorem resetContentNeverReachesAnOutput : Obligations.ResetContentNeverReachesAnOutput := by
  unfold Obligations.ResetContentNeverReachesAnOutput
  intro k s₁ s₂ t₁ hp h hrun
  have hlive : SameLive s₁ s₂ := h.sameLive Phase.init hp fun hne => absurd rfl hne
  obtain ⟨t₂, hrun₂, ht⟩ := run_keeps_sameLive hlive hrun
  exact ⟨t₂, hrun₂, ht.trace.symm, ht⟩

end Sys2Proof.Machine
end

section
/-! Proofs for 40_input_sampler.md: key events on the key lines, and the masks SAMPLE makes of them (R120 to R126). -/

namespace Sys2Proof.Machine

/-! ## The masks, bit by bit -/

@[simp] theorem inputHeld_one (keys : List Bool) (k : KeyCode) : inputHeld keys [k] = readKey keys k := by
  simp [inputHeld_eq_any]

@[simp] theorem inputHeld_two (keys : List Bool) (k l : KeyCode) :
    inputHeld keys [k, l] = (readKey keys k || readKey keys l) := by
  simp [inputHeld_eq_any]

/-- An input is held where one of the lines bound to it is (R123). -/
theorem inputHeld_of_mem {keys : List Bool} {codes : List KeyCode} {key : KeyCode} (hmem : key ∈ codes)
    (hdown : keys[key.toNat]? = some true) : inputHeld keys codes = true := by
  rw [inputHeld_eq_any, List.any_eq_true]
  exact ⟨key, hmem, by rw [readKey_eq, hdown]; rfl⟩

/-- A line held down shows in every input it is bound to (R123, R124). -/
theorem maskOf_bit_of_held {row : BindingRow} {keys : List Bool} {n : Nat} {codes : List KeyCode} {key : KeyCode}
    (hrow : row[n]? = some codes) (hmem : key ∈ codes) (hdown : keys[key.toNat]? = some true) :
    (maskOf row keys).getLsbD n = true :=
  (maskOf_getLsbD row keys n codes hrow).trans (inputHeld_of_mem hmem hdown)

/-- Bit `n` of a mask is the OR of the lines its row binds to input `n` (R124). -/
theorem maskOf_bit_eq_any {row : BindingRow} (keys : List Bool) {n : Nat} {codes : List KeyCode}
    (hrow : row[n]? = some codes) :
    (maskOf row keys).getLsbD n = codes.any fun k => keys[k.toNat]?.getD false :=
  (maskOf_getLsbD row keys n codes hrow).trans (inputHeld_eq_any keys codes)

/-- A mask reads no line but those its row names (R124, R126). -/
theorem maskOf_congr {row : BindingRow} {keys keys' : List Bool}
    (h : ∀ codes ∈ row.toList, ∀ k ∈ codes, keys[k.toNat]? = keys'[k.toNat]?) : maskOf row keys = maskOf row keys' := by
  apply BitVec.eq_of_getLsbD_eq
  intro n hn
  have hrow : row[n]? = some row[n] := Vector.getElem?_eq_getElem hn
  rw [maskOf_bit_eq_any keys hrow, maskOf_bit_eq_any keys' hrow, Bool.eq_iff_iff, List.any_eq_true, List.any_eq_true]
  exact exists_congr fun k => and_congr_right fun hk => by rw [h row[n] (by simp) k hk]

/-! ## The default binding -/

/-- Player 1's mask under the default binding (R125). -/
theorem maskOf_defaultRow1 (keys : List Bool) :
    let K := fun k : Nat => keys[k]?.getD false
    let m := maskOf defaultRow1 keys
    m.getLsbD 0 = K 0 ∧ m.getLsbD 1 = K 1 ∧ m.getLsbD 2 = K 2 ∧ m.getLsbD 3 = K 3 ∧ m.getLsbD 4 = K 4 ∧
      m.getLsbD 5 = (K 5 || K 6) :=
  ⟨(maskOf_getLsbD _ keys 0 _ rfl).trans (inputHeld_one keys 0#4),
   (maskOf_getLsbD _ keys 1 _ rfl).trans (inputHeld_one keys 1#4),
   (maskOf_getLsbD _ keys 2 _ rfl).trans (inputHeld_one keys 2#4),
   (maskOf_getLsbD _ keys 3 _ rfl).trans (inputHeld_one keys 3#4),
   (maskOf_getLsbD _ keys 4 _ rfl).trans (inputHeld_one keys 4#4),
   (maskOf_getLsbD _ keys 5 _ rfl).trans (inputHeld_two keys 5#4 6#4)⟩

/-- Player 2's mask under the default binding (R125; A left and S down, log 8). -/
theorem maskOf_defaultRow2 (keys : List Bool) :
    let K := fun k : Nat => keys[k]?.getD false
    let m := maskOf defaultRow2 keys
    m.getLsbD 0 = K 7 ∧ m.getLsbD 1 = K 9 ∧ m.getLsbD 2 = K 8 ∧ m.getLsbD 3 = K 10 ∧ m.getLsbD 4 = (K 11 || K 12) ∧
      m.getLsbD 5 = (K 13 || K 14) :=
  ⟨(maskOf_getLsbD _ keys 0 _ rfl).trans (inputHeld_one keys 7#4),
   (maskOf_getLsbD _ keys 1 _ rfl).trans (inputHeld_one keys 9#4),
   (maskOf_getLsbD _ keys 2 _ rfl).trans (inputHeld_one keys 8#4),
   (maskOf_getLsbD _ keys 3 _ rfl).trans (inputHeld_one keys 10#4),
   (maskOf_getLsbD _ keys 4 _ rfl).trans (inputHeld_two keys 11#4 12#4),
   (maskOf_getLsbD _ keys 5 _ rfl).trans (inputHeld_two keys 13#4 14#4)⟩

/-- Player 1's row names lines 0 to 6 only (R125, R126). -/
theorem defaultRow1_lines : ∀ codes ∈ defaultRow1.toList, ∀ k ∈ codes, k.toNat < 7 := by decide

/-- Player 2's row names lines 7 to 14 only (R125, R126). -/
theorem defaultRow2_lines : ∀ codes ∈ defaultRow2.toList, ∀ k ∈ codes, 7 ≤ k.toNat ∧ k.toNat < 15 := by decide

/-- Key lines that show the masks `m₁` and `m₂` under the default binding: one line for each input (R126). -/
def keysShowing (m₁ m₂ : InputMask) : List Bool :=
  [m₁.getLsbD 0, m₁.getLsbD 1, m₁.getLsbD 2, m₁.getLsbD 3, m₁.getLsbD 4, m₁.getLsbD 5, false,
   m₂.getLsbD 0, m₂.getLsbD 2, m₂.getLsbD 1, m₂.getLsbD 3, m₂.getLsbD 4, false, m₂.getLsbD 5, false]

/-- Two masks with the same six bits are the same. -/
theorem mask_ext {m m' : InputMask} (h0 : m.getLsbD 0 = m'.getLsbD 0) (h1 : m.getLsbD 1 = m'.getLsbD 1)
    (h2 : m.getLsbD 2 = m'.getLsbD 2) (h3 : m.getLsbD 3 = m'.getLsbD 3) (h4 : m.getLsbD 4 = m'.getLsbD 4)
    (h5 : m.getLsbD 5 = m'.getLsbD 5) : m = m' := by
  apply BitVec.eq_of_getLsbD_eq
  intro n hn
  have hcases : n = 0 ∨ n = 1 ∨ n = 2 ∨ n = 3 ∨ n = 4 ∨ n = 5 := by omega
  rcases hcases with rfl | rfl | rfl | rfl | rfl | rfl <;> assumption

theorem maskOf_keysShowing (m₁ m₂ : InputMask) :
    maskOf defaultRow1 (keysShowing m₁ m₂) = m₁ ∧ maskOf defaultRow2 (keysShowing m₁ m₂) = m₂ := by
  obtain ⟨a0, a1, a2, a3, a4, a5⟩ := maskOf_defaultRow1 (keysShowing m₁ m₂)
  obtain ⟨b0, b1, b2, b3, b4, b5⟩ := maskOf_defaultRow2 (keysShowing m₁ m₂)
  exact ⟨mask_ext a0 a1 a2 a3 a4 (a5.trans (Bool.or_false _)),
    mask_ext b0 b1 b2 b3 (b4.trans (Bool.or_false _)) (b5.trans (Bool.or_false _))⟩

/-! ## A sequence of key events -/

/-- The key lines after the key events `events` (R120, R121). -/
def applyKeyEvents (keys : List Bool) (events : List (BitVec 5)) : List Bool :=
  events.foldl (fun ks e => writeKey ks (keyField e) (e.getLsbD 4)) keys

/-- The events that write line `k` (R122). -/
def eventsOfLine (k : Nat) (events : List (BitVec 5)) : List (BitVec 5) :=
  events.filter fun e => (keyField e).toNat == k && keyField e != 15#4

theorem applyKeyEvents_append (keys : List Bool) (events : List (BitVec 5)) (e : BitVec 5) :
    applyKeyEvents keys (events ++ [e]) = writeKey (applyKeyEvents keys events) (keyField e) (e.getLsbD 4) := by
  simp [applyKeyEvents]

theorem applyKeyEvents_length (keys : List Bool) (events : List (BitVec 5)) :
    (applyKeyEvents keys events).length = keys.length := by
  induction events using List.reverseRecOn with
  | nil => rfl
  | append_singleton events e ih => rw [applyKeyEvents_append, writeKey_length, ih]

theorem eventsOfLine_append (k : Nat) (events : List (BitVec 5)) (e : BitVec 5) :
    eventsOfLine k (events ++ [e]) =
      if k = (keyField e).toNat ∧ keyField e ≠ 15#4 then eventsOfLine k events ++ [e] else eventsOfLine k events := by
  have hsel : ((keyField e).toNat == k && keyField e != 15#4) = true ↔ k = (keyField e).toNat ∧ keyField e ≠ 15#4 := by
    rw [Bool.and_eq_true, beq_iff_eq, bne_iff_ne, eq_comm]
  simp only [eventsOfLine, List.filter_append, List.filter_cons, List.filter_nil, hsel]
  split <;> simp

/-- A line holds the `down` bit of the last event that writes it, and what it held before where there is none (R122). -/
theorem applyKeyEvents_getElem? (keys : List Bool) (events : List (BitVec 5)) {k : Nat} (hk : k < keys.length) :
    (applyKeyEvents keys events)[k]? = ((eventsOfLine k events).getLast?.map fun e => e.getLsbD 4).or keys[k]? := by
  induction events using List.reverseRecOn with
  | nil => rfl
  | append_singleton events e ih =>
    rw [applyKeyEvents_append, writeKey_getElem? _ _ _ _ (by rwa [applyKeyEvents_length]), eventsOfLine_append, ih]
    by_cases he : k = (keyField e).toNat ∧ keyField e ≠ 15#4
    · rw [if_pos he, if_pos he, List.getLast?_concat]; rfl
    · rw [if_neg he, if_neg he]

/-- The key event source's turn (R102, R120, R121). -/
theorem step_of_key_turn {s : State} {word : BitVec 5} {rest : List Turn} (ht : s.turns = .key word :: rest) :
    step s = .next { s with
      block := { s.block with keys := writeKey s.block.keys (keyField word) (word.getLsbD 4) }, turns := rest } :=
  (step_of_key_word ht).trans (keyEvent_eq word _)

/-- A run of key events writes the key lines and nothing else (R122). -/
theorem run_keyEvents {events : List (BitVec 5)} {s : State} (ht : s.turns = events.map Turn.key) :
    Host.Core.run Sys2Proof.core events.length s = .next
      { s with turns := [], block := { s.block with keys := applyKeyEvents s.block.keys events } } := by
  induction events generalizing s with
  | nil =>
    have hs : s = { s with turns := [] } := by rw [← show s.turns = [] from ht]
    exact congrArg Host.Outcome.next hs
  | cons e events ih => exact (run_succ _ s _ (step_of_key_turn ht)).trans (ih rfl)

/-! ## The obligations -/

/-- Settles O8: KEYDOWN writes one line, and the next SAMPLE ORs that line into each input it is bound to. -/
theorem keydownSetsExactlyItsLine : Obligations.KeydownSetsExactlyItsLine := by
  unfold Obligations.KeydownSetsExactlyItsLine
  intro key s
  refine ⟨congrArg Except.ok (decodeKeyEvent_down key), _, rfl, rfl, writeKey_length _ _ _,
    fun k hk => writeKey_getElem? _ _ _ _ hk, ?other, fun hne hlt => ⟨_, exec_sample_eq _, ?masks⟩⟩
  case other => rintro rfl; rfl
  case masks =>
    have hdown : (writeKey s.block.keys key true)[key.toNat]? = some true :=
      (writeKey_getElem? _ _ _ _ hlt).trans (if_pos ⟨rfl, hne⟩)
    exact ⟨fun n codes hrow hmem => maskOf_bit_of_held hrow hmem hdown,
      fun n codes hrow hmem => maskOf_bit_of_held hrow hmem hdown⟩

/-- Settles O9: KEYUP writes one line and nothing else. -/
theorem keyupClearsExactlyItsLine : Obligations.KeyupClearsExactlyItsLine := by
  unfold Obligations.KeyupClearsExactlyItsLine
  intro key s
  refine ⟨congrArg Except.ok (decodeKeyEvent_up key), _, rfl, rfl, writeKey_length _ _ _,
    fun k hk => writeKey_getElem? _ _ _ _ hk, ?_⟩
  rintro rfl; rfl

/-- Settles O10: by induction on the events, the last one that writes a line decides it. -/
theorem keyLinesHoldTheLastEventOfTheirCode : Obligations.KeyLinesHoldTheLastEventOfTheirCode := by
  unfold Obligations.KeyLinesHoldTheLastEventOfTheirCode
  intro events s ht
  refine ⟨_, run_keyEvents ht, rfl, applyKeyEvents_length _ _, fun k hk => ?_⟩
  refine (applyKeyEvents_getElem? _ events hk).trans ?_
  unfold eventsOfLine
  cases (events.filter fun e => (keyField e).toNat == k && keyField e != 15#4).getLast? <;> rfl

/-- Settles O11: SAMPLE's equation gives the frame, and each bit of a mask is the OR of its lines. -/
theorem sampleOrsTheBoundLinesIntoTheMasks : Obligations.SampleOrsTheBoundLinesIntoTheMasks := by
  unfold Obligations.SampleOrsTheBoundLinesIntoTheMasks
  exact fun s => ⟨_, exec_sample_eq s, rfl, fun n codes hrow => maskOf_bit_eq_any _ hrow,
    fun n codes hrow => maskOf_bit_eq_any _ hrow⟩

/-- Settles O12: the two rows of the default binding, bit by bit. -/
theorem defaultBindingGivesTheMasksOfTheTable : Obligations.DefaultBindingGivesTheMasksOfTheTable := by
  unfold Obligations.DefaultBindingGivesTheMasksOfTheTable
  intro s hbinding
  rw [exec_sample_eq, hbinding]
  exact ⟨_, rfl, maskOf_defaultRow1 s.block.keys, maskOf_defaultRow2 s.block.keys⟩

/-- Settles O13: each row of the default binding names its own player's lines only. -/
theorem playersMasksAreIndependent : Obligations.PlayersMasksAreIndependent := by
  unfold Obligations.PlayersMasksAreIndependent
  intro s₁ s₂ t₁ t₂ hb₁ hb₂ he₁ he₂
  rw [exec_sample_eq, hb₁] at he₁
  rw [exec_sample_eq, hb₂] at he₂
  cases he₁
  cases he₂
  refine ⟨fun h => maskOf_congr fun codes hc k hk => h _ (defaultRow1_lines codes hc k hk),
    fun h => maskOf_congr fun codes hc k hk => ?_⟩
  obtain ⟨hlow, hhigh⟩ := defaultRow2_lines codes hc k hk
  exact h _ hlow hhigh

/-- Settles O14: hold one line for each input that is wanted. -/
theorem everyPairOfMasksCanBeSampled : Obligations.EveryPairOfMasksCanBeSampled := by
  unfold Obligations.EveryPairOfMasksCanBeSampled
  intro m₁ m₂ s hbinding hkeys
  refine ⟨keysShowing m₁ m₂, _, hkeys.symm, exec_sample_eq _, ?_⟩
  simp only [hbinding]
  exact maskOf_keysShowing m₁ m₂

end Sys2Proof.Machine
end

section
/-! Proofs for 42_color_decoder.md and 43_compositor.md: the default colours, INIT and COMPOSITE pixel by pixel, and both as the
loops of their pseudocode (R161 to R165, R175 to R180). -/

namespace Sys2Proof.Machine

/-! ## The loops, pixel by pixel -/

/-- A whole pixel at the head of the bytes of `n + 1` pixels (R96). -/
theorem exists_pixel {bytes : List Byte} {n : Nat} (h : bytes.length = 4 * (n + 1)) :
    ∃ r g b a rest, bytes = r :: g :: b :: a :: rest ∧ rest.length = 4 * n := by
  match bytes, h with
  | r :: g :: b :: a :: rest, h => exact ⟨r, g, b, a, rest, rfl, by simp only [List.length_cons] at h; omega⟩
  | [], h | [_], h | [_, _], h | [_, _, _], h => simp only [List.length_cons, List.length_nil] at h; omega

theorem pixWrite_toList (pix : Vector Byte Config.pixBytes) (j : Nat) (v : Byte) :
    (pixWrite pix j v).toList = pix.toList.set j v := by
  simp [pixWrite]

/-- R175's loop on the pixels from `i` on is INIT's pass over them. -/
theorem initLoop_toList {n i : Nat} {pix : Vector Byte Config.pixBytes} {done rest : List Byte}
    (hpix : pix.toList = done ++ rest) (hdone : done.length = 4 * i) (hrest : rest.length = 4 * n) :
    (initLoop n i pix).toList = done ++ fillAlpha rest := by
  induction n generalizing i pix done rest with
  | zero =>
    obtain rfl := List.eq_nil_of_length_eq_zero hrest
    exact hpix
  | succ n ih =>
    obtain ⟨r, g, b, a, rest, rfl, hlen⟩ := exists_pixel hrest
    have hwrite : (pixWrite pix (4 * i + 3) Config.alpha).toList = (done ++ [r, g, b, Config.alpha]) ++ rest := by
      rw [pixWrite_toList, hpix, ← hdone]
      simp
    have hpass := ih (i := i + 1) hwrite (by simp only [List.length_append, List.length_cons, List.length_nil]; omega) hlen
    simpa [initLoop, fillAlpha] using hpass

/-- R177's loop on the pixels from `i` on is COMPOSITE's pass over them, and ends where its test finds an index above 31. -/
theorem compositeLoop_eq (ct : Vector Rgb Config.nPal) {scr : Vector Byte Config.nPix} {n i : Nat}
    {pix : Vector Byte Config.pixBytes} {seen idxs done rest : List Byte} (hscr : scr.toList = seen ++ idxs)
    (hseen : seen.length = i) (hidxs : idxs.length = n) (hpix : pix.toList = done ++ rest) (hdone : done.length = 4 * i)
    (hrest : rest.length = 4 * n) :
    (compositeLoop ct scr n i pix).1.toList = done ++ paint ct idxs rest ∧
    (compositeLoop ct scr n i pix).2 = firstOutOfRange i idxs := by
  induction n generalizing i pix seen idxs done rest with
  | zero =>
    obtain rfl := List.eq_nil_of_length_eq_zero hidxs
    exact ⟨hpix, rfl⟩
  | succ n ih =>
    obtain ⟨x, idxs, rfl⟩ := List.exists_cons_of_length_eq_add_one hidxs
    obtain ⟨r, g, b, a, rest, rfl, hlen⟩ := exists_pixel hrest
    have hx : scr[i]? = some x := by
      rw [← Vector.getElem?_toList, hscr, ← hseen]
      simp
    by_cases hout : 31 < x.toNat
    · have hnone := (ct_getElem?_none ct x).mpr hout
      simp [compositeLoop, hx, hout, paint, hnone, hpix, firstOutOfRange]
    · obtain ⟨c, hc⟩ := buffer_getElem?_isSome ct (j := x.toNat) (by simp only [Config.nPal]; omega)
      have hwrite : (pixWrite (pixWrite (pixWrite pix (4 * i) c.r) (4 * i + 1) c.g) (4 * i + 2) c.b).toList =
          (done ++ [c.r, c.g, c.b, a]) ++ rest := by
        rw [pixWrite_toList, pixWrite_toList, pixWrite_toList, hpix, ← hdone]
        simp
      have hpass := ih (i := i + 1) (seen := seen ++ [x]) (by simpa using hscr) (by simp [hseen]) (by simpa using hidxs) hwrite
        (by simp only [List.length_append, List.length_cons, List.length_nil]; omega) hlen
      simpa [compositeLoop, hx, hout, hc, paint, firstOutOfRange] using hpass

/-- R175's loop over all pixels is INIT's pass. -/
theorem initLoop_all (pix : Vector Byte Config.pixBytes) : initLoop 76800 0 pix = initPix pix :=
  Vector.toList_inj.mp (initLoop_toList (done := []) rfl rfl (by simp))

/-- R177's loop over all pixels is COMPOSITE's pass and its test. -/
theorem compositeLoop_all (b : Block) :
    compositeLoop b.ct b.scr 76800 0 b.pix = (compositePix b, firstOutOfRange 0 b.scr.toList) := by
  obtain ⟨hpix, hfault⟩ := compositeLoop_eq b.ct (scr := b.scr) (n := 76800) (pix := b.pix) (seen := []) (done := []) rfl rfl
    (by simp) rfl rfl (by simp)
  exact Prod.ext (Vector.toList_inj.mp hpix) hfault

/-! ## The obligations -/

/-- Settles O25: the entry is decoded from two bytes, and each channel is a high nibble. -/
theorem defaultColoursAreHighNibbles : Obligations.DefaultColoursAreHighNibbles := by
  unfold Obligations.DefaultColoursAreHighNibbles
  intro s t hgreen he n c b1 hc h1
  rw [exec_decode_ct he, hgreen] at hc
  have hn : n < 32 := buffer_getElem?_lt hc
  obtain ⟨b0, h0⟩ := buffer_getElem?_isSome s.block.pal (j := 2 * n) (by simp only [Config.palBytes]; omega)
  rw [decodePalette_entry defaultGreen hn h0 h1] at hc
  obtain rfl := Option.some.inj hc
  have hg : greenOf defaultGreen b1 = b1 &&& 0xF0#8 := greenOf_default b1
  exact ⟨hg, redOf_low b0, (congrArg (fun g : Byte => g.toNat % 16) hg).trans (and_high_low b1), blueOf_low b1⟩

/-- Settles O26: INIT's equation gives the frame, its pass the bytes. -/
theorem initWritesTheAlphaBytesOnly : Obligations.InitWritesTheAlphaBytesOnly := by
  unfold Obligations.InitWritesTheAlphaBytesOnly
  exact fun s => ⟨_, exec_init_eq s, rfl, initPix_alphaFull s.block.pix, fun _ _ hcolour => initPix_colour s.block.pix hcolour⟩

/-- Settles O27: with valid indices only, every pixel is painted from its entry. -/
theorem compositeMapsEveryPixelThroughTheTable : Obligations.CompositeMapsEveryPixelThroughTheTable := by
  unfold Obligations.CompositeMapsEveryPixelThroughTheTable
  intro s hvalid
  exact ⟨_, execComposite_valid s hvalid, rfl,
    fun i x c _ hx hc => compositePix_pixel s.block i x c hx hc fun j y _ hy => hvalid j y hy⟩

/-- Settles O28: the pixels before the lowest invalid index are painted, no byte from it on is. -/
theorem compositeHaltsAtTheLowestInvalidIndex : Obligations.CompositeHaltsAtTheLowestInvalidIndex := by
  unfold Obligations.CompositeHaltsAtTheLowestInvalidIndex
  intro s i x hi hx hlow
  refine ⟨_, execComposite_invalid s i x hi hx hlow, rfl, ?before, ?after⟩
  case before =>
    exact fun j y c hj hy hc => compositePix_pixel s.block j y c hy hc fun l z hl hz => hlow l z (hl.trans hj) hz
  case after => exact fun k hk => compositePix_after s.block i x hi hx k hk

/-- Settles O29: pixel by pixel the loops write what the passes over the bytes do. -/
theorem compositeAndInitAreTheirPseudocode : Obligations.CompositeAndInitAreTheirPseudocode := by
  unfold Obligations.CompositeAndInitAreTheirPseudocode
  refine ⟨fun s => ?composite, fun s => ?init⟩
  case init => rw [exec_init_eq, initLoop_all]
  case composite =>
    change execComposite s = _
    rw [compositeLoop_all, execComposite]
    cases firstOutOfRange 0 s.block.scr.toList with
    | none => rfl
    | some p =>
      obtain ⟨i, x⟩ := p
      cases s.config.oorPolicy
      rfl

end Sys2Proof.Machine
end

section
/-! Proofs for 44_sequencer.md, 70_reset_and_hazards.md and the decoded step: what one operation does, which operation a step
runs, and short runs (R105, R192 to R199, R216, R250, R251). -/

namespace Sys2Proof.Machine

/-! ## A placed word -/

/-- A word read in the format `PHASE` is the table's bits (R101, log 15). -/
theorem tableWord_phase {nbits w : Nat} {code : BitVec 4} (h : tableWord nbits w = some (.phase code)) :
    code = BitVec.ofNat 4 w := by
  unfold tableWord at h
  grind

/-- What `placeWord` places is run by the next step, beside the `PHASE` it has put there for a phase operation (log 18). -/
theorem step_placeWord {s : State} {word : OpWord} {i : Instr} (hd : decode word = .ok i) :
    ∃ p, step (s.placeWord word) = exec i { s with block := { s.block with phase := p } } ∧
      (p = s.block.phase ∨ word = .phase p) := by
  cases word with
  | hevt code cap => exact ⟨s.block.phase, step_of_host_turn rfl hd, .inl rfl⟩
  | kevt word =>
    obtain rfl : decodeKeyEvent word = i := Except.ok.inj hd
    exact ⟨s.block.phase, step_of_key_word rfl, .inl rfl⟩
  | phase code => exact ⟨code, step_of_seq_turn rfl hd, .inr rfl⟩

/-! ## A missing capability -/

/-- The halt entry of ACCESSOR_MISSING, every element written out (R216 cause 1, R225). -/
theorem haltEntry_accessorMissing (s : State) :
    haltEntry Cause.accessorMissing (missingCaps s.block.cap).toNat 0 s = { s with
      block := { s.block with
        faultCause := 1#3
        faultInfo0 := trunc (s.config.ptrWidth + 1) (15 - s.block.cap.toNat)
        faultInfo1 := 0, phase := 15#4 }
      trace := s.trace ++ [.fault 1#3 (15 - s.block.cap.toNat) 0] } := by
  have hzero : trunc (s.config.ptrWidth + 1) 0 = 0 := Nat.zero_mod _
  rw [haltEntry_eq, missingCaps_toNat, hzero]

theorem hasQueries_of_missing {cap : BitVec 4}
    (h : cap.getLsbD 1 = false ∨ cap.getLsbD 2 = false ∨ cap.getLsbD 3 = false) : hasQueries cap = false := by
  rcases h with h | h | h <;> rw [hasQueries, h] <;> simp

/-! ## A step of the module that never returns -/

/-- While the module's step has not returned, a step other than RESET takes its turn off the list and writes at most the key
lines (R197). -/
theorem step_while_pending {s : State} (hr : ∀ turn ∈ s.turns, turn.isReset = false) (hp : s.block.phase = Phase.step)
    (hcap : hasStep s.block.cap = true) (hret : s.stepReturns = []) :
    ∃ keys, step s = .next { s with block := { s.block with keys := keys }, turns := s.turns.tail } := by
  rcases fetch_fst_cases s with ⟨code, cap, hf, rest, ht⟩ | ⟨word, hf, _⟩ | ⟨hf, _⟩
  · refine ⟨s.block.keys, ?_⟩
    rcases step_of_hostEvent hf (code_ne_reset hr ht) with hst | hst | hst
    · exact hst
    · exact hst.trans (exec_tick_ignored (by rw [hp]; decide))
    · exact hst.trans (exec_start_ignored cap (by rw [hp]; decide))
  · exact ⟨_, (step_of_decode_ok (by rw [hf]; rfl)).trans (keyEvent_eq word _)⟩
  · exact ⟨s.block.keys, (step_of_decode_ok (i := .step) (by rw [hf, hp]; rfl)).trans (exec_step_pending hcap hret)⟩

/-- The module's step is pending with no RESET to come, and the trace and the recorded cause are those of `origin`. -/
structure PendingAs (origin s : State) : Prop where
  noReset : ∀ turn ∈ s.turns, turn.isReset = false
  phase : s.block.phase = Phase.step
  cap : hasStep s.block.cap = true
  noReturn : s.stepReturns = []
  trace : s.trace = origin.trace
  faultCause : s.block.faultCause = origin.block.faultCause

/-- Every step while the module's step is pending goes on and leaves it pending (R197). -/
theorem step_keeps_pendingAs {origin s : State} (h : PendingAs origin s) : ∃ t, step s = .next t ∧ PendingAs origin t := by
  obtain ⟨keys, hstep⟩ := step_while_pending h.noReset h.phase h.cap h.noReturn
  exact ⟨_, hstep, { h with noReset := fun turn hmem => h.noReset turn (List.mem_of_mem_tail hmem) }⟩

/-! ## The obligations -/

/-- Settles O6: the turn says whose word is fetched, and the step runs what it decodes to. -/
theorem stepRunsTheDecodedOperation : Obligations.StepRunsTheDecodedOperation := by
  unfold Obligations.StepRunsTheDecodedOperation
  refine ⟨fun s i ht hd => step_of_no_turn ht hd, fun s rest i ht hd => step_of_seq_turn ht hd,
    fun s rest code cap i ht hd => step_of_host_turn ht hd, fun s rest word i ht hd => ?key, fun s rest cap ht => ?noEvent⟩
  case key =>
    obtain rfl : decodeKeyEvent word = i := Except.ok.inj hd
    exact step_of_key_word ht
  case noEvent =>
    have hf : s.fetch.1 = .hevt 0#2 cap := by rw [State.fetch, ht]
    rw [step_of_noEvent (by rw [hf]; rfl), ht, List.tail_cons]

/-- Settles O7: the table's word is placed by its format, and the next step fetches it. -/
theorem placedWordIsRunNext : Obligations.PlacedWordIsRunNext := by
  unfold Obligations.PlacedWordIsRunNext
  intro s nbits w i h
  unfold decodeTableWord at h
  cases hword : tableWord nbits w with
  | none => rw [hword] at h; cases h
  | some word =>
    rw [hword] at h
    have hd : decode word = .ok i := by
      cases hdec : decode word with
      | ok j => simpa [hdec, Except.toOption] using h
      | error e => simp [hdec, Except.toOption] at h
    obtain ⟨p, hstep, hp⟩ := step_placeWord (s := s) hd
    refine ⟨p, ?_, hp.imp_right fun hphase => tableWord_phase (hphase ▸ hword)⟩
    rw [State.withFetchWord, State.placeTableWord, hword]
    exact hstep

/-- Settles O16: the capability test fails, and the halt entry is the whole effect. -/
theorem missingCapabilityHalts : Obligations.MissingCapabilityHalts := by
  unfold Obligations.MissingCapabilityHalts
  rintro s i (⟨rfl, hcap⟩ | ⟨rfl, hcap⟩)
  · rw [exec_step_missing hcap, haltEntry_accessorMissing]
  · rw [exec_acquire_missing (hasQueries_of_missing hcap), haltEntry_accessorMissing]

/-- Settles O31: the three outcomes of START. -/
theorem startIsAcceptedInIdleOnly : Obligations.StartIsAcceptedInIdleOnly := by
  unfold Obligations.StartIsAcceptedInIdleOnly
  refine fun cap s => ⟨?accepted, ?failed, fun hp => exec_start_ignored cap hp⟩
  case accepted =>
    rintro hp rfl
    exact exec_start_accepted hp
  case failed =>
    intro hp hcap
    rw [exec_start_failed hp hcap, missingCaps_eq_not]

/-- Settles O32: the two outcomes of TICK. -/
theorem tickIsAcceptedInWaitOnly : Obligations.TickIsAcceptedInWaitOnly := by
  unfold Obligations.TickIsAcceptedInWaitOnly
  exact fun s => ⟨fun hp => exec_tick_accepted hp, fun hp => exec_tick_ignored hp⟩

/-- Settles O33: the three held phases answer the same state. -/
theorem heldPhasesChangeNothing : Obligations.HeldPhasesChangeNothing := by
  unfold Obligations.HeldPhasesChangeNothing
  exact fun s => ⟨rfl, rfl, rfl⟩

/-- Settles O34: the equation of a STEP that returns; a mask of six bits is below 64. -/
theorem stepHandsBothMasksToTheModule : Obligations.StepHandsBothMasksToTheModule := by
  unfold Obligations.StepHandsBothMasksToTheModule
  intro s m rest hcap hr
  exact ⟨⟨_, exec_step_returns hcap hr, rfl, Memory.read_ofCells m.mem⟩, s.block.p1Mask.isLt, s.block.p2Mask.isLt⟩

/-- Settles O35: every step leaves the module's step pending. -/
theorem stepThatNeverReturnsHangs : Obligations.StepThatNeverReturnsHangs := by
  unfold Obligations.StepThatNeverReturnsHangs
  intro k s hp hcap hret hr
  obtain ⟨t, hrun, ht⟩ := run_goes_on (fun _ => step_keeps_pendingAs) k s (⟨hr, hp, hcap, hret, rfl, rfl⟩ : PendingAs s s)
  exact ⟨t, hrun, ht.phase, ht.trace, ht.faultCause⟩

/-- Settles O36: PRESENT's equation. -/
theorem presentEmitsACopyOfThePixels : Obligations.PresentEmitsACopyOfThePixels := by
  unfold Obligations.PresentEmitsACopyOfThePixels
  exact exec_present_eq

/-- Settles O37: RESET's equation, and the widths of the elements it draws. -/
theorem resetGivesTheSpecifiedValues : Obligations.ResetGivesTheSpecifiedValues := by
  unfold Obligations.ResetGivesTheSpecifiedValues
  exact fun s => ⟨_, exec_reset_eq s, rfl, rfl, rfl, rfl, rfl, rfl, rfl, rfl, trunc_lt _ _, trunc_lt _ _,
    Nat.le_of_lt_succ (Nat.mod_lt _ (Nat.succ_pos _))⟩

/-- Settles O38: the values of the reset state. -/
theorem resetStateHasTheSpecifiedValues : Obligations.ResetStateHasTheSpecifiedValues := by
  unfold Obligations.ResetStateHasTheSpecifiedValues
  exact ⟨rfl, rfl, rfl, rfl, rfl, rfl, rfl, rfl, rfl, rfl, rfl, rfl, rfl⟩

/-- Settles O39: RESET and then INIT, each by its equation. -/
theorem resetThenInitIsTheEntryState : Obligations.ResetThenInitIsTheEntryState := by
  unfold Obligations.ResetThenInitIsTheEntryState
  intro s cap rest ht
  have hreset := (step_of_host_turn (i := .reset) ht rfl).trans (exec_reset_eq _)
  have hrun := (run_succ 1 s _ hreset).trans
    (run_succ 0 _ _ ((step_of_seq_turn (i := .init) rfl rfl).trans (exec_init_eq _)))
  exact ⟨_, hrun, rfl, rfl, rfl, initPix_alphaFull _, rfl, rfl, rfl, rfl, rfl⟩

/-- Settles O56: `STATE` code by code, and the port's fields. -/
theorem statusPortShowsStateAndRegisters : Obligations.StatusPortShowsStateAndRegisters := by
  unfold Obligations.StatusPortShowsStateAndRegisters
  exact ⟨fun b => rfl, by decide⟩

end Sys2Proof.Machine
end

section
/-! Proofs for the machine as a whole: the access matrix, the outputs, the phase graph, and what follows of them for every run
(R16, R48, R108, R183, R190, R201, R217, R221, R223). -/

namespace Sys2Proof.Machine

/-! ## Who writes which element -/

/-- The access matrix (R48): where `i` is not marked for an element, `t` has it as `s` has; RESET writes everything. -/
structure WritesMarked (i : Instr) (s t : State) : Prop where
  keys : (∀ key, i ≠ .keydown key ∧ i ≠ .keyup key) → t.block.keys = s.block.keys
  masks : i ≠ .sample → t.block.p1Mask = s.block.p1Mask ∧ t.block.p2Mask = s.block.p2Mask
  view : i ≠ .acquire → t.block.screenPtr = s.block.screenPtr ∧ t.block.palettePtr = s.block.palettePtr ∧
    t.block.memSz = s.block.memSz
  scr : i ≠ .xscreen → t.block.scr = s.block.scr
  pal : i ≠ .xpal → t.block.pal = s.block.pal
  ct : i ≠ .decode → t.block.ct = s.block.ct
  colour : i ≠ .composite → ∀ j, j % 4 ≠ 3 → t.block.pix[j]? = s.block.pix[j]?
  alpha : i ≠ .init → ∀ j, j % 4 = 3 → t.block.pix[j]? = s.block.pix[j]?
  phase : ∀ key, i = .keydown key ∨ i = .keyup key → t.block.phase = s.block.phase
  start : (∀ cap, i ≠ .start cap) → t.block.cap = s.block.cap ∧ t.block.startErr = s.block.startErr
  fault : i ≠ .step → i ≠ .acquire → i ≠ .xscreen → i ≠ .xpal → i ≠ .composite →
    t.block.faultCause = s.block.faultCause ∧ t.block.faultInfo0 = s.block.faultInfo0 ∧
    t.block.faultInfo1 = s.block.faultInfo1
  config : t.config = s.config

/-- Every operation but RESET writes the elements it is marked for, and no other (R48). -/
theorem exec_writesMarked {i : Instr} {s t : State} (h : exec i s = .next t) (hr : i ≠ .reset) : WritesMarked i s t := by
  cases i with
  | reset => exact absurd rfl hr
  | start cap => rcases execStart_cases h with ⟨_, _, rfl⟩ | ⟨_, _, rfl⟩ | ⟨_, rfl⟩ <;> constructor <;> simp
  | tick => rcases execTick_cases h with ⟨_, rfl⟩ | ⟨_, rfl⟩ <;> constructor <;> simp
  | step =>
    rcases execStep_cases h with ⟨_, rfl⟩ | ⟨_, _, rfl⟩ | ⟨_, _, _, _, rfl⟩ <;> constructor <;> simp [haltEntry_eq]
  | acquire => rcases execAcquire_cases h with ⟨_, rfl⟩ | ⟨_, _, _, _, rfl⟩ <;> constructor <;> simp [haltEntry_eq]
  | xscreen => rcases execXscreen_cases h with ⟨_, rfl⟩ | ⟨_, _, _, rfl⟩ <;> constructor <;> simp [haltEntry_eq]
  | xpal => rcases execXpal_cases h with ⟨_, rfl⟩ | ⟨_, _, _, rfl⟩ <;> constructor <;> simp [haltEntry_eq]
  | composite =>
    rcases execComposite_cases h with ⟨_, rfl⟩ | ⟨_, _, _, _, _, rfl⟩ <;> constructor <;>
      simp +contextual [haltEntry_eq, compositePix_alpha]
  | init =>
    rw [exec_init_eq] at h
    cases h
    constructor <;> simp +contextual [initPix_colour]
  | sample | decode | present | keydown | keyup | idle | wait | halt => cases h; constructor <;> simp

/-! ## Outputs -/

/-- Where the output `o` of an operation `i` from `s` to `t` comes from, kind by kind (R16). -/
def EmittedBy (i : Instr) (s t : State) : Output → Prop
  | .startStatus ok => ∃ cap, i = .start cap ∧ ok = (cap == 0b1111#4)
  | .stepReq p1 p2 => i = .step ∧ p1 = s.block.p1Mask.toNat ∧ p2 = s.block.p2Mask.toNat
  | .present frame => i = .present ∧ frame = s.block.pix
  | .fault cause i0 i1 => (i = .step ∨ i = .acquire ∨ i = .xscreen ∨ i = .xpal ∨ i = .composite) ∧
      t.block.phase = Phase.halt ∧ t.block.faultCause = cause ∧
      t.block.faultInfo0 = trunc (s.config.ptrWidth + 1) i0 ∧ t.block.faultInfo1 = trunc (s.config.ptrWidth + 1) i1

/-- An operation appends at most one output, and that output is its own (R16). -/
theorem exec_emits {i : Instr} {s t : State} (h : exec i s = .next t) :
    t.trace = s.trace ∨ ∃ o, t.trace = s.trace ++ [o] ∧ EmittedBy i s t o := by
  cases i with
  | start cap =>
    rcases execStart_cases h with ⟨_, rfl, rfl⟩ | ⟨_, hcap, rfl⟩ | ⟨_, rfl⟩
    · exact .inr ⟨.startStatus true, rfl, _, rfl, rfl⟩
    · exact .inr ⟨.startStatus false, rfl, _, rfl, (beq_false_of_ne hcap).symm⟩
    · exact .inl rfl
  | tick => rcases execTick_cases h with ⟨_, rfl⟩ | ⟨_, rfl⟩ <;> exact .inl rfl
  | step =>
    rcases execStep_cases h with ⟨_, rfl⟩ | ⟨_, _, rfl⟩ | ⟨_, _, _, _, rfl⟩
    · exact .inr ⟨.fault _ _ _, rfl, .inl rfl, rfl, rfl, rfl, rfl⟩
    · exact .inl rfl
    · exact .inr ⟨.stepReq _ _, rfl, rfl, rfl, rfl⟩
  | acquire =>
    rcases execAcquire_cases h with ⟨_, rfl⟩ | ⟨_, _, _, _, rfl⟩
    · exact .inr ⟨.fault _ _ _, rfl, .inr (.inl rfl), rfl, rfl, rfl, rfl⟩
    · exact .inl rfl
  | xscreen =>
    rcases execXscreen_cases h with ⟨_, rfl⟩ | ⟨_, _, _, rfl⟩
    · exact .inr ⟨.fault _ _ _, rfl, .inr (.inr (.inl rfl)), rfl, rfl, rfl, rfl⟩
    · exact .inl rfl
  | xpal =>
    rcases execXpal_cases h with ⟨_, rfl⟩ | ⟨_, _, _, rfl⟩
    · exact .inr ⟨.fault _ _ _, rfl, .inr (.inr (.inr (.inl rfl))), rfl, rfl, rfl, rfl⟩
    · exact .inl rfl
  | composite =>
    rcases execComposite_cases h with ⟨_, rfl⟩ | ⟨_, _, _, _, _, rfl⟩
    · exact .inl rfl
    · exact .inr ⟨.fault _ _ _, rfl, .inr (.inr (.inr (.inr rfl))), rfl, rfl, rfl, rfl⟩
  | present => cases h; exact .inr ⟨.present _, rfl, rfl, rfl⟩
  | reset | keydown | keyup | idle | sample | decode | wait | init | halt => cases h; exact .inl rfl

/-! ## The phase graph -/

/-- The operation `PHASE` names takes an edge of its phase (R190). -/
theorem phaseOperation_edge {i : Instr} {s t : State} (hd : decodePhase s.block.phase = .ok i) (he : exec i s = .next t) :
    PhaseEdge (some i) s.block.phase t.block.phase := by
  cases i, hd using phaseOperation_cases with
  | idle _ hp => cases he; rw [hp]; exact .idle
  | sample _ hp => cases he; rw [hp]; exact .sample
  | step _ hp =>
    rcases execStep_cases he with ⟨_, rfl⟩ | ⟨_, _, rfl⟩ | ⟨_, _, _, _, rfl⟩ <;> rw [hp]
    exacts [.stepFault, .stepPending, .stepReturned]
  | acquire _ hp =>
    rcases execAcquire_cases he with ⟨_, rfl⟩ | ⟨_, _, _, _, rfl⟩ <;> rw [hp]
    exacts [.acquireFault, .acquire]
  | xscreen _ hp =>
    rcases execXscreen_cases he with ⟨_, rfl⟩ | ⟨_, _, _, rfl⟩ <;> rw [hp]
    exacts [.xscreenFault, .xscreen]
  | xpal _ hp =>
    rcases execXpal_cases he with ⟨_, rfl⟩ | ⟨_, _, _, rfl⟩ <;> rw [hp]
    exacts [.xpalFault, .xpal]
  | decode _ hp => cases he; rw [hp]; exact .decode
  | composite _ hp =>
    rcases execComposite_cases he with ⟨_, rfl⟩ | ⟨_, _, _, _, _, rfl⟩ <;> rw [hp]
    exacts [.composite, .compositeFault]
  | present _ hp => cases he; rw [hp]; exact .present
  | wait _ hp => cases he; rw [hp]; exact .wait
  | init _ hp =>
    rw [exec_init_eq] at he
    cases he; rw [hp]; exact .init
  | halt _ hp => cases he; rw [hp]; exact .halt

/-- START takes an edge from IDLE or is ignored (R192). -/
theorem start_edge {cap : BitVec 4} {s t : State} (he : execStart cap s = .next t) :
    PhaseEdge (some (.start cap)) s.block.phase t.block.phase := by
  rcases execStart_cases he with ⟨hp, rfl, rfl⟩ | ⟨hp, hcap, rfl⟩ | ⟨hp, rfl⟩
  · rw [hp]; exact .started
  · simp only [hp]; exact .startFailed cap hcap
  · exact .startIgnored cap _ hp

/-- TICK takes the edge from WAIT or is ignored (R194). -/
theorem tick_edge {s t : State} (he : execTick s = .next t) : PhaseEdge (some .tick) s.block.phase t.block.phase := by
  rcases execTick_cases he with ⟨hp, rfl⟩ | ⟨hp, rfl⟩
  · rw [hp]; exact .tick
  · exact .tickIgnored _ hp

/-- Every step takes an edge of the phase graph (R190). -/
theorem step_edge {s t : State} (hst : step s = .next t) : PhaseEdge (nextInstr s) s.block.phase t.block.phase := by
  rcases step_operation_cases hst with ⟨hnone, rfl⟩ | ⟨i, hi, he, hfrom⟩
  · rw [hnone]; exact .noEvent _
  · rw [hi]
    rcases hfrom with ⟨cap, rfl⟩ | rfl | ⟨rfl, _⟩ | ⟨key, rfl | rfl⟩ | hd
    · exact start_edge (s := { s with turns := s.turns.tail }) he
    · exact tick_edge (s := { s with turns := s.turns.tail }) he
    · rw [exec_reset_eq] at he
      cases he; exact .reset _
    · cases he; exact .keydown key _
    · cases he; exact .keyup key _
    · exact phaseOperation_edge (s := { s with turns := s.turns.tail }) hd he

/-- No edge but RESET's leads a started session back (R201). -/
theorem PhaseEdge.stays_started {a : Option Instr} {p q : BitVec 4} (h : PhaseEdge a p q) (ha : a ≠ some .reset)
    (hp : ¬ NotStarted p) : ¬ NotStarted q := by
  cases h with
  | reset => exact absurd rfl ha
  | init | startFailed | idle => exact absurd (by unfold NotStarted; decide) hp
  | startIgnored | tickIgnored | keydown | keyup | noEvent => exact hp
  | _ => unfold NotStarted; decide

/-- From INIT no edge but INIT's leads on (R191). -/
theorem PhaseEdge.stays_init {a : Option Instr} {p q : BitVec 4} (h : PhaseEdge a p q) (ha : a ≠ some .init)
    (hp : p = Phase.init) : q = Phase.init := by
  cases h with
  | reset => rfl
  | init => exact absurd rfl ha
  | startIgnored | tickIgnored | keydown | keyup | noEvent => exact hp
  | _ => exact absurd hp (by decide)

/-- PRESENT's edge begins in PRESENT (R198). -/
theorem PhaseEdge.present_source {p q : BitVec 4} (h : PhaseEdge (some .present) p q) : p = Phase.present := by
  cases h; rfl

/-- RESET is run where a RESET event is the next turn, and nowhere else (R103, R250). -/
theorem nextInstr_ne_reset {s : State} (hr : ∀ turn ∈ s.turns, turn.isReset = false) : nextInstr s ≠ some .reset := by
  intro hnext
  have hd := decode_of_nextInstr hnext
  rcases fetch_fst_cases s with ⟨code, cap, hf, rest, ht⟩ | ⟨word, hf, _⟩ | ⟨hf, _⟩ <;> rw [hf] at hd
  · rcases decodeHostEvent_cases hd with ⟨_, hi⟩ | ⟨_, hi⟩ | ⟨rfl, _⟩
    · cases hi
    · cases hi
    · exact code_ne_reset hr ht rfl
  · have hi : decodeKeyEvent word = .reset := Except.ok.inj hd
    rcases decodeKeyEvent_cases word with hw | hw <;> cases hw.symm.trans hi
  · cases encode_of_decodePhase hd

/-- An operation leaves `PHASE` or writes a legal code (R108). -/
theorem exec_phase_kept_or_legal {i : Instr} {s t : State} (h : exec i s = .next t) :
    t.block.phase = s.block.phase ∨ phaseCodeLegal t.block.phase = true := by
  cases i with
  | start cap =>
    rcases execStart_cases h with ⟨_, _, rfl⟩ | ⟨_, _, rfl⟩ | ⟨_, rfl⟩
    exacts [.inr rfl, .inl rfl, .inl rfl]
  | tick =>
    rcases execTick_cases h with ⟨_, rfl⟩ | ⟨_, rfl⟩
    exacts [.inr rfl, .inl rfl]
  | step =>
    rcases execStep_cases h with ⟨_, rfl⟩ | ⟨_, _, rfl⟩ | ⟨_, _, _, _, rfl⟩
    exacts [.inr rfl, .inl rfl, .inr rfl]
  | acquire => rcases execAcquire_cases h with ⟨_, rfl⟩ | ⟨_, _, _, _, rfl⟩ <;> exact .inr rfl
  | xscreen => rcases execXscreen_cases h with ⟨_, rfl⟩ | ⟨_, _, _, rfl⟩ <;> exact .inr rfl
  | xpal => rcases execXpal_cases h with ⟨_, rfl⟩ | ⟨_, _, _, rfl⟩ <;> exact .inr rfl
  | composite => rcases execComposite_cases h with ⟨_, rfl⟩ | ⟨_, _, _, _, _, rfl⟩ <;> exact .inr rfl
  | reset | sample | decode | present | init => cases h; exact .inr rfl
  | keydown | keyup | idle | wait | halt => cases h; exact .inl rfl

/-- The reserved codes are 10 to 13 (R108). -/
theorem phaseCodeLegal_eq_false_iff (code : BitVec 4) :
    phaseCodeLegal code = false ↔ 10 ≤ code.toNat ∧ code.toNat ≤ 13 := by
  revert code; decide

/-! ## Opaque frames -/

/-- Since `origin` alpha has been 255 outside INIT, in `PIX` and in every frame presented (R183). -/
structure OpaqueSince (origin s : State) : Prop where
  pixels : s.block.phase ≠ Phase.init → AlphaFull s.block.pix
  frames : ∃ out, s.trace = origin.trace ++ out ∧ ∀ frame, Output.present frame ∈ out → AlphaFull frame

/-- No operation but RESET takes the alpha bytes away, and INIT fills them (R183). -/
theorem exec_keeps_alphaFull {i : Instr} {s t : State} (h : exec i s = .next t) (hr : i ≠ .reset)
    (ha : i ≠ .init → AlphaFull s.block.pix) : AlphaFull t.block.pix := by
  by_cases hi : i = .init
  · subst hi
    rw [exec_init_eq] at h
    cases h
    exact initPix_alphaFull s.block.pix
  · exact fun j hj => ((exec_writesMarked h hr).alpha hi (4 * j + 3) (by omega)).trans (ha hi j hj)

/-- Every step keeps `PIX` opaque outside INIT, and so what it presents. -/
theorem step_keeps_opaqueSince {origin s t : State} (h : OpaqueSince origin s) (hst : step s = .next t) :
    OpaqueSince origin t := by
  obtain ⟨out, hout, hframes⟩ := h.frames
  have hedge := step_edge hst
  rcases step_operation_cases hst with ⟨hnone, rfl⟩ | ⟨i, hi, he, hfrom⟩
  · exact { pixels := h.pixels, frames := ⟨out, hout, hframes⟩ }
  · rw [hi] at hedge
    refine ⟨fun hp => ?pixels, ?frames⟩
    case pixels =>
      refine exec_keeps_alphaFull he ?_ fun hinit => h.pixels fun hs => hp (hedge.stays_init (by simpa using hinit) hs)
      rintro rfl
      rw [exec_reset_eq] at he
      cases he
      exact hp rfl
    case frames =>
      rcases exec_emits he with htrace | ⟨o, htrace, ho⟩
      · exact ⟨out, htrace.trans hout, hframes⟩
      · refine ⟨out ++ [o], by rw [htrace, ← List.append_assoc]; exact congrArg (· ++ [o]) hout, fun frame hmem => ?_⟩
        rcases List.mem_append.mp hmem with hmem | hmem
        · exact hframes frame hmem
        · obtain rfl := List.mem_singleton.mp hmem
          obtain ⟨rfl, rfl⟩ := ho
          exact h.pixels fun hs => absurd (hedge.present_source.symm.trans hs) (by decide)

/-! ## Key events beside the other operations -/

/-- An operation that is neither SAMPLE, RESET nor a key event does the same beside any key lines, and leaves them (R221). -/
theorem exec_otherKeys {i : Instr} {s u : State} (keys : List Bool) (h : exec i s = .next u) (hs : i ≠ .sample)
    (hr : i ≠ .reset) (hk : ∀ key, i ≠ .keydown key ∧ i ≠ .keyup key) :
    exec i { s with block := { s.block with keys := keys } } = .next { u with block := { u.block with keys := keys } } := by
  cases i with
  | sample => exact absurd rfl hs
  | reset => exact absurd rfl hr
  | keydown key => exact absurd rfl (hk key).1
  | keyup key => exact absurd rfl (hk key).2
  | start cap =>
    rcases execStart_cases h with ⟨hp, rfl, rfl⟩ | ⟨hp, hcap, rfl⟩ | ⟨hp, rfl⟩
    · exact exec_start_accepted hp
    · exact exec_start_failed hp hcap
    · exact exec_start_ignored cap hp
  | tick =>
    rcases execTick_cases h with ⟨hp, rfl⟩ | ⟨hp, rfl⟩
    · exact exec_tick_accepted hp
    · exact exec_tick_ignored hp
  | step =>
    rcases execStep_cases h with ⟨hcap, rfl⟩ | ⟨hcap, hret, rfl⟩ | ⟨m, rest, hcap, hret, rfl⟩
    · exact exec_step_missing hcap
    · exact exec_step_pending hcap hret
    · exact exec_step_returns hcap hret
  | acquire =>
    rcases execAcquire_cases h with ⟨hcap, rfl⟩ | ⟨m, rest, hcap, hm, rfl⟩
    · exact exec_acquire_missing hcap
    · exact exec_acquire_eq hcap hm
  | xscreen =>
    rcases execXscreen_cases h with ⟨hout, rfl⟩ | ⟨bytes, hfit, hread, rfl⟩
    · exact exec_xscreen_oob hout
    · exact exec_xscreen_reads hfit hread
  | xpal =>
    rcases execXpal_cases h with ⟨hout, rfl⟩ | ⟨bytes, hfit, hread, rfl⟩
    · exact exec_xpal_oob hout
    · exact exec_xpal_reads hfit hread
  | composite =>
    rcases execComposite_cases h with ⟨hvalid, rfl⟩ | ⟨j, x, hj, hx, hlow, rfl⟩
    · exact execComposite_valid _ hvalid
    · exact execComposite_invalid _ j x hj hx hlow
  | idle | decode | present | wait | init | halt => cases h; rfl

/-! ## The obligations -/

/-- Settles O5: a reserved code is refused by name, and what an operation writes into `PHASE` is legal. -/
theorem reservedPhaseCodesAreRefusedAndNeverWritten : Obligations.ReservedPhaseCodesAreRefusedAndNeverWritten := by
  unfold Obligations.ReservedPhaseCodesAreRefusedAndNeverWritten
  refine ⟨fun s ht h10 h13 => ?refused, fun i s t he h10 h13 => ?written⟩
  case refused =>
    have hd := decodePhase_reserved ((phaseCodeLegal_eq_false_iff _).mpr ⟨h10, h13⟩)
    have hf : s.fetch.1 = .phase s.block.phase := by
      rcases ht with ht | ⟨rest, ht⟩ <;> rw [State.fetch, ht]
    rw [step, hf, show decode (.phase s.block.phase) = .error (.reservedPhase s.block.phase) from hd]
  case written =>
    refine (exec_phase_kept_or_legal he).resolve_right ?_
    rw [(phaseCodeLegal_eq_false_iff _).mpr ⟨h10, h13⟩]
    exact Bool.false_ne_true

/-- Settles O40: each event and each phase operation takes an edge. -/
theorem phaseMovesAlongTheGraphOnly : Obligations.PhaseMovesAlongTheGraphOnly := by
  unfold Obligations.PhaseMovesAlongTheGraphOnly
  exact fun s t hst => step_edge hst

/-- Settles O41: with no RESET among the turns, every edge stays in the session. -/
theorem startedSessionNeverReturnsToIdle : Obligations.StartedSessionNeverReturnsToIdle := by
  unfold Obligations.StartedSessionNeverReturnsToIdle
  intro k s t hr hp hrun
  have hkept := run_induction (P := fun u => (∀ turn ∈ u.turns, turn.isReset = false) ∧ ¬ NotStarted u.block.phase)
    (fun u v hu hst => ⟨fun turn hmem => hu.1 turn (List.mem_of_mem_tail (step_turns hst ▸ hmem)),
      (step_edge hst).stays_started (nextInstr_ne_reset hu.1) hu.2⟩) k s t ⟨hr, hp⟩ hrun
  exact hkept.2

/-- Settles O46: from INIT on every step keeps `PIX` and the frames opaque. -/
theorem everyPresentedFrameIsOpaque : Obligations.EveryPresentedFrameIsOpaque := by
  unfold Obligations.EveryPresentedFrameIsOpaque
  intro k s t hp hrun
  have hstart : OpaqueSince s s := ⟨fun hne => absurd hp hne, [], (List.append_nil _).symm, by simp⟩
  have hkept := run_induction (fun _ _ => step_keeps_opaqueSince) k s t hstart hrun
  exact ⟨hkept.pixels, hkept.frames⟩

/-- Settles O47: only the five raise a fault, by the access matrix and by the origin of the outputs. -/
theorem otherOperationsNeverFault : Obligations.OtherOperationsNeverFault := by
  unfold Obligations.OtherOperationsNeverFault
  intro i s hstep hacquire hxscreen hxpal hcomposite
  obtain ⟨t, he⟩ := exec_goes_on hxscreen hxpal s
  refine ⟨t, he, fun hr => ?registers, ?outputs⟩
  case registers =>
    exact (exec_writesMarked he hr).fault hstep hacquire hxscreen hxpal hcomposite
  case outputs =>
    rcases exec_emits he with htrace | ⟨o, htrace, ho⟩
    · exact ⟨[], htrace.trans (List.append_nil _).symm, by simp⟩
    · refine ⟨[o], htrace, fun c i0 i1 hmem => ?_⟩
      obtain rfl := List.mem_singleton.mp hmem
      obtain ⟨hfive, _⟩ := ho
      tauto

/-- Settles O48: the access matrix. -/
theorem onlyTheMarkedOperationsWriteAnElement : Obligations.OnlyTheMarkedOperationsWriteAnElement := by
  unfold Obligations.OnlyTheMarkedOperationsWriteAnElement
  intro i s t he hr
  have h := exec_writesMarked he hr
  exact ⟨h.keys, h.masks, h.view, h.scr, h.pal, h.ct, h.colour, h.alpha, h.phase, h.start, h.fault, h.config⟩

/-- Settles O49: the one output of each operation, kind by kind. -/
theorem outputsComeFromTheirOperationsOnly : Obligations.OutputsComeFromTheirOperationsOnly := by
  unfold Obligations.OutputsComeFromTheirOperationsOnly
  intro i s t he
  refine (exec_emits he).imp_right fun ⟨o, htrace, ho⟩ => ⟨o, htrace, ?_⟩
  cases o <;> exact ho

/-- Settles O54: a key event writes the key lines, which the operation neither reads nor writes. -/
theorem keyEventsCommuteWithTheFrame : Obligations.KeyEventsCommuteWithTheFrame := by
  unfold Obligations.KeyEventsCommuteWithTheFrame
  intro word i s t u hs hr hk hkey he
  have hkeys := (exec_writesMarked he hr).keys hk
  rw [keyEvent_eq] at hkey
  cases hkey
  refine ⟨_, exec_otherKeys _ he hs hr hk, ?_⟩
  rw [keyEvent_eq, hkeys]

/-- Settles O55: XSCREEN tests its region first; XPAL's test comes only after the screen is copied. -/
theorem firstFaultInPhaseOrderIsReported : Obligations.FirstFaultInPhaseOrderIsReported := by
  unfold Obligations.FirstFaultInPhaseOrderIsReported
  intro s hp ht hsize hpalette
  have hdecode : decodePhase s.block.phase = .ok .xscreen := by rw [hp]; rfl
  rcases Nat.lt_or_ge s.block.memSz (s.block.screenPtr + 76800) with hout | hfit
  · have hscreen := (step_of_no_turn ht hdecode).trans (exec_xscreen_oob hout)
    have hhalt : step (haltEntry Cause.oobScreen s.block.screenPtr s.block.memSz s) = .next _ :=
      step_of_no_turn (i := .halt) ht rfl
    exact ⟨_, (run_succ 1 s _ hscreen).trans (run_succ 0 _ _ hhalt), rfl, fun _ => ⟨rfl, rfl, rfl, rfl⟩,
      fun hfit => absurd hfit (Nat.not_le_of_lt hout)⟩
  · have hscreen := (step_of_no_turn ht hdecode).trans (exec_xscreen_copies hfit (hsize ▸ hfit))
    have hrun := (run_succ 1 s _ hscreen).trans
      (run_succ 0 _ _ ((step_of_no_turn (i := .xpal) (by exact ht) rfl).trans (exec_xpal_oob (by exact hpalette))))
    exact ⟨_, hrun, rfl, fun hout => absurd hout (Nat.not_lt_of_le hfit),
      fun _ => ⟨rfl, rfl, fun j hj => (tabulate_getElem? _ _ j).trans (if_pos hj), rfl⟩⟩

end Sys2Proof.Machine
end

section
/-! Proofs for one whole frame, from TICK to PRESENT (R194 to R200): its nine steps in three parts, and the picture it shows. -/

namespace Sys2Proof.Machine

/-- A run is a run of its first steps and then of the others. -/
theorem run_add {j : Nat} {s u : State} (k : Nat) (h : Host.Core.run Sys2Proof.core j s = .next u) :
    Host.Core.run Sys2Proof.core (j + k) s = Host.Core.run Sys2Proof.core k u := by
  induction j generalizing s with
  | zero => cases h; rw [Nat.zero_add]
  | succ j ih =>
    obtain ⟨v, hv, hrest⟩ := run_succ_inv h
    rw [Nat.succ_add, run_succ _ s v hv, ih hrest]

/-! ## The three parts of a frame -/

/-- TICK, SAMPLE and STEP: the masks are handed to the module, which is then as its step left it (R194, R123, R196). -/
theorem run_tick_sample_step {s : State} {m : ComputeModule} {more : List ComputeModule} {cap : BitVec 4} {later : List Turn}
    (hp : s.block.phase = Phase.wait) (hcap : hasStep s.block.cap = true)
    (ht : s.turns = .host HostEvent.tick cap :: .seq :: .seq :: later) (hret : s.stepReturns = m :: more) :
    Host.Core.run Sys2Proof.core 3 s = .next { s with
      block := { s.block with
        p1Mask := maskOf s.config.binding.p1 s.block.keys
        p2Mask := maskOf s.config.binding.p2 s.block.keys
        phase := Phase.acquire }
      moduleNow := m.landed s.config.ptrWidth
      stepReturns := more
      turns := later
      trace := s.trace ++ [.stepReq (maskOf s.config.binding.p1 s.block.keys).toNat
        (maskOf s.config.binding.p2 s.block.keys).toNat] } := by
  have htick := (step_of_host_turn (i := .tick) ht rfl).trans (exec_tick_accepted hp)
  refine (run_succ 2 s _ htick).trans ?_
  refine (run_succ 1 _ _ ((step_of_seq_turn (i := .sample) rfl rfl).trans (exec_sample_eq _))).trans ?_
  exact run_succ 0 _ _ ((step_of_seq_turn (i := .step) rfl rfl).trans (exec_step_returns hcap hret))

/-- ACQUIRE, XSCREEN and XPAL on a module `m` that the queries leave and whose regions fit: its screen and its palette are
copied (R140, R142, R144). -/
theorem run_acquire_xscreen_xpal {s : State} {m : ComputeModule} {rest : List ComputeModule} {later : List Turn}
    (hp : s.block.phase = Phase.acquire) (hcap : hasQueries s.block.cap = true)
    (ht : s.turns = .seq :: .seq :: .seq :: later)
    (hm : (s.queryReturns = [] ∧ rest = [] ∧ m = s.moduleNow) ∨
      ∃ q, s.queryReturns = q :: rest ∧ m = q.landed s.config.ptrWidth)
    (hsize : m.size ≤ 2 ^ s.config.ptrWidth) (hscreen : m.screenPtr + 76800 ≤ m.size)
    (hpalette : m.palettePtr + 64 ≤ m.size) :
    Host.Core.run Sys2Proof.core 3 s = .next { s with
      block := { s.block with
        screenPtr := m.screenPtr
        palettePtr := m.palettePtr
        memSz := m.size
        scr := tabulate 76800 fun j => Memory.read m.mem (m.screenPtr + j)
        pal := tabulate 64 fun j => Memory.read m.mem (m.palettePtr + j)
        phase := Phase.decode }
      moduleNow := m
      queryReturns := rest
      turns := later } := by
  have hlatch := exec_acquire_eq (s := { s with turns := .seq :: .seq :: later }) hcap hm
  rw [trunc_of_lt (by simp only; omega), trunc_of_lt (by simp only; omega), trunc_succ_of_le hsize] at hlatch
  refine (run_succ 2 s _ ((step_of_seq_turn (i := .acquire) ht (by rw [hp]; rfl)).trans hlatch)).trans ?_
  refine (run_succ 1 _ _ ((step_of_seq_turn (i := .xscreen) rfl rfl).trans (exec_xscreen_copies hscreen hscreen))).trans ?_
  exact run_succ 0 _ _ ((step_of_seq_turn (i := .xpal) rfl rfl).trans (exec_xpal_copies hpalette hpalette))

/-- The block of `s` after a DECODE. -/
def decodedBlock (s : State) : Block :=
  { s.block with ct := decodePalette s.config.green s.block.pal, phase := Phase.composite }

/-- DECODE, COMPOSITE and PRESENT on a screen of valid indices: the picture is emitted (R160, R177, R198). -/
theorem run_decode_composite_present {s : State} {later : List Turn} (hp : s.block.phase = Phase.decode)
    (ht : s.turns = .seq :: .seq :: .seq :: later)
    (hvalid : ∀ (i : Nat) (x : Byte), s.block.scr[i]? = some x → x.toNat ≤ 31) :
    Host.Core.run Sys2Proof.core 3 s = .next { s with
      block := { decodedBlock s with pix := compositePix (decodedBlock s), phase := Phase.wait }
      turns := later
      trace := s.trace ++ [.present (compositePix (decodedBlock s))] } := by
  have hdecode := (step_of_seq_turn (i := .decode) ht (by rw [hp]; rfl)).trans (exec_decode_eq _)
  refine (run_succ 2 s _ hdecode).trans ?_
  refine (run_succ 1 _ _ ((step_of_seq_turn (i := .composite) rfl rfl).trans
    (execComposite_valid _ (by exact hvalid)))).trans ?_
  exact run_succ 0 _ _ ((step_of_seq_turn (i := .present) rfl rfl).trans (exec_present_eq _))

/-- The picture after DECODE and COMPOSITE: pixel `i` has the colour decoded from the two palette bytes its screen byte names
(R180). -/
theorem decodedBlock_shows {s : State} (halpha : AlphaFull s.block.pix)
    (hvalid : ∀ (i : Nat) (x : Byte), s.block.scr[i]? = some x → x.toNat ≤ 31) {i : Nat} {n b0 b1 : Byte} (hi : i < 76800)
    (hn : s.block.scr[i]? = some n) (h0 : s.block.pal[2 * n.toNat]? = some b0) (h1 : s.block.pal[2 * n.toNat + 1]? = some b1) :
    ShowsOpaque (compositePix (decodedBlock s)) i (decodeEntry s.config.green b0 b1) :=
  composite_shows_decoded (exec_decode_eq s)
    (execComposite_valid { s with block := decodedBlock s } hvalid) rfl halpha hi hn h0 h1

/-! ## From TICK to the copies -/

/-- `u` is `s` after TICK to XPAL of a frame: the `StepReq` is emitted, both copies are of the module `q`, the scripts have gone
on to `more` and `qs`, three turns of the sequencer and `later` are to come, and what no operation of the frame writes is kept. -/
structure FrameCopied (s : State) (q : ComputeModule) (more qs : List ComputeModule) (later : List Turn) (u : State) :
    Prop where
  phase : u.block.phase = Phase.decode
  turns : u.turns = .seq :: .seq :: .seq :: later
  stepReturns : u.stepReturns = more
  queryReturns : u.queryReturns = qs
  trace : u.trace = s.trace ++ [.stepReq (maskOf s.config.binding.p1 s.block.keys).toNat
    (maskOf s.config.binding.p2 s.block.keys).toNat]
  keys : u.block.keys = s.block.keys
  cap : u.block.cap = s.block.cap
  faultCause : u.block.faultCause = s.block.faultCause
  config : u.config = s.config
  pix : u.block.pix = s.block.pix
  screen : ∀ j, j < 76800 → u.block.scr[j]? = some (Memory.read q.mem (q.screenPtr + j))
  palette : ∀ j, j < 64 → u.block.pal[j]? = some (Memory.read q.mem (q.palettePtr + j))

/-- A byte copied from the landed module is the image's (R77, log 27). -/
theorem tabulate_landed_getElem? (w : Nat) (q : ComputeModule) (ptr : Nat) {n j : Nat} (hj : j < n) :
    (tabulate n fun j => Memory.read (q.landed w).mem (ptr + j))[j]? = some (Memory.read q.mem (ptr + j)) := by
  rw [tabulate_getElem?, if_pos hj, (landed_reads_as_image w q).2]

/-- TICK to XPAL of a frame whose module's regions fit (R194 to R196, R140 to R144). -/
theorem run_tick_to_xpal {s : State} {m q : ComputeModule} {more qs : List ComputeModule} {cap : BitVec 4} {later : List Turn}
    (hp : s.block.phase = Phase.wait) (hcap : s.block.cap = 0b1111#4)
    (ht : s.turns = .host HostEvent.tick cap :: (List.replicate 8 .seq ++ later)) (hret : s.stepReturns = m :: more)
    (hquery : (s.queryReturns = [] ∧ qs = [] ∧ q = m) ∨ s.queryReturns = q :: qs) (hsize : q.size ≤ 2 ^ s.config.ptrWidth)
    (hscreen : q.screenPtr + 76800 ≤ q.size) (hpalette : q.palettePtr + 64 ≤ q.size) :
    ∃ u, Host.Core.run Sys2Proof.core 6 s = .next u ∧ FrameCopied s q more qs later u := by
  have hlanded : (q.landed s.config.ptrWidth).size = q.size := Nat.min_eq_left hsize
  have hm : (s.queryReturns = [] ∧ qs = [] ∧ q.landed s.config.ptrWidth = m.landed s.config.ptrWidth) ∨
      ∃ q', s.queryReturns = q' :: qs ∧ q.landed s.config.ptrWidth = q'.landed s.config.ptrWidth := by
    rcases hquery with ⟨hnone, hqs, rfl⟩ | hsome
    · exact .inl ⟨hnone, hqs, rfl⟩
    · exact .inr ⟨q, hsome, rfl⟩
  have hstep := run_tick_sample_step hp (by rw [hcap]; rfl) ht hret
  have hcopy := (run_add 3 hstep).trans (run_acquire_xscreen_xpal rfl (by exact hcap ▸ rfl) rfl (by exact hm)
    (hlanded.trans_le hsize) (hscreen.trans_eq hlanded.symm) (hpalette.trans_eq hlanded.symm))
  exact ⟨_, hcopy,
    { phase := rfl, turns := rfl, stepReturns := rfl, queryReturns := rfl, trace := rfl, keys := rfl, cap := rfl
      faultCause := rfl, config := rfl, pix := rfl
      screen := fun j hj => tabulate_landed_getElem? _ q _ hj
      palette := fun j hj => tabulate_landed_getElem? _ q _ hj }⟩

/-- The copied screen has valid indices where the module's region has (R178). -/
theorem FrameCopied.valid {s u : State} {q : ComputeModule} {more qs : List ComputeModule} {later : List Turn}
    (h : FrameCopied s q more qs later u)
    (hidx : ∀ j, j < 76800 → (Memory.read q.mem (q.screenPtr + j)).toNat ≤ 31) (i : Nat) (x : Byte)
    (hx : u.block.scr[i]? = some x) : x.toNat ≤ 31 := by
  have hi : i < 76800 := buffer_getElem?_lt hx
  obtain rfl := Option.some.inj ((h.screen i hi).symm.trans hx)
  exact hidx i hi

/-! ## The obligation -/

/-- Settles O53: the frame up to its copies, then its picture, which shows the two copies of the module as the queries leave
it. -/
theorem aFrameRunsFromTickToPresent : Obligations.AFrameRunsFromTickToPresent := by
  unfold Obligations.AFrameRunsFromTickToPresent
  intro s m q more qs cap later hp hcap halpha ht hret hquery hsize hscreen hpalette hidx
  obtain ⟨u, hrun, hu⟩ := run_tick_to_xpal hp hcap ht hret hquery hsize hscreen hpalette
  have hvalid := hu.valid hidx
  have hframe := (run_add 3 hrun).trans (run_decode_composite_present hu.phase hu.turns hvalid)
  refine ⟨_, hframe, rfl, rfl, hu.stepReturns, hu.queryReturns, ?trace, hu.keys, hu.cap, hu.faultCause, hu.config,
    fun i hi => ?picture⟩
  case trace =>
    simp only [hu.trace, List.append_assoc]
    rfl
  case picture =>
    have hn := hu.screen i hi
    have hle := hidx i hi
    obtain ⟨hr, hg, hb, ha⟩ := decodedBlock_shows (hu.pix ▸ halpha) hvalid hi hn (hu.palette _ (by omega))
      (hu.palette _ (by omega))
    rw [hu.config] at hg
    exact ⟨hr.trans (congrArg some (redOf_eq _)), hg.trans (greenOf_getElem? _ _).symm, hb, ha⟩

end Sys2Proof.Machine
end
